-- ==== Sys2Proof/Word.lean ====
section
/-! DEFINITION. Word types and their plainest arithmetic (00_scope.md R7). -/

namespace Sys2Proof

/-- An 8-bit byte (20_memory.md R50). -/
abbrev Byte := BitVec 8

/-- A 16-bit word (00_scope.md R17). -/
abbrev Word := BitVec 16

/-- `AH:AL` style concatenation: the word with high part `hi` and low part `lo` (00_scope.md R7). -/
def Byte.pair (hi lo : Byte) : Word := hi ++ lo

/-- The low-order byte of a word, bits 7 to 0. -/
def Word.lo (w : Word) : Byte := w.extractLsb' 0 8

/-- The high-order byte of a word, bits 15 to 8. -/
def Word.hi (w : Word) : Byte := w.extractLsb' 8 8

/-- A one-bit value as a number, for adding a carry. -/
def bitNat (c : Bool) : Nat := if c then 1 else 0

end Sys2Proof
end

