-- ==== Sys2Proof/Config.lean ====
section
/-! DEFINITION. The implementation parameters of 00_scope.md R6 and the free values. A parameter the spec leaves OPEN is an
uninterpreted constant (`opaque`, no body): a statement proved of the model holds for every value of it. A parameter the
spec gives one value is that value. -/

namespace Sys2Proof

/-- `ADDRESS_BITS` = 20 (20_memory.md R50; log 3). -/
def Config.addressBits : Nat := 20

/-- `PREFETCH_BYTES`: how far ahead of the next instruction the queue may have fetched. 6 is the larger of the two values
00_scope.md R6 names (80C186; 4 on the 80C188), so it covers both (log 22). -/
def Config.prefetchBytes : Nat := 6

/-- `SINGLE_STEP_TYPE` = 1 (60_exceptions.md R343; log 26). -/
def Config.singleStepType : Byte := 1

/-- `NMI_TYPE` = 2 (60_exceptions.md R343; log 26). -/
def Config.nmiType : Byte := 2

/-- `AAM_AAD_BASE` = 0AH (30_encoding.md R99; log 20). -/
def Config.decimalBase : Byte := 0x0A

/-- The two effects `WORD_AT_FFFF` names for a word at offset FFFFH (20_memory.md R53; log 4). -/
inductive Config.WordAtFFFF where
  | /-- the high byte is at offset 0000H of the same segment -/ wrapOffset
  | /-- the high byte is at the next physical address -/ linear
deriving DecidableEq, Repr, Inhabited

/-- `WORD_AT_FFFF`, OPEN (92_eei_decisions.md D6; log 4). -/
opaque Config.wordAtFFFF : Config.WordAtFFFF

/-- `SHIFT_COUNT_MASK`, OPEN: true for 1FH, false for FFH (92_eei_decisions.md D11; log 12). -/
opaque Config.shiftCountMaskedTo5 : Bool

/-- `ENTER_LEVEL_MASK`, OPEN: true for 1FH, false for FFH (92_eei_decisions.md D21; log 16). -/
opaque Config.enterLevelMaskedTo5 : Bool

/-- `FAULT_RETURN_IP`, OPEN: true for `faulting`, false for `next` (92_eei_decisions.md D10; log 14). -/
opaque Config.faultReturnIsFaulting : Bool

/-- `IDIV_MIN_QUOTIENT_TRAPS`, OPEN (92_eei_decisions.md D22; log 15). -/
opaque Config.idivMinQuotientTraps : Bool

/-- `POP_SP_RESULT`, OPEN: true for `popped_plus_2`, false for `popped` (92_eei_decisions.md D25; log 17). -/
opaque Config.popSpAddsTwo : Bool

/-- `ESC_ACTION`, OPEN: true for `trap7`, false for `nop_with_read` (92_eei_decisions.md D19; log 18). -/
opaque Config.escTraps : Bool

/-- `UNDEFINED_OPCODE_ACTION`, OPEN: true for `trap6`, false for `refuse` (92_eei_decisions.md D12; log 19). -/
opaque Config.undefinedOpcodeTraps : Bool

/-- `FLAGS_RESERVED`, OPEN: what bits 15-12, 5, 3 and 1 of the flag word read as; its other bits are not used
(92_eei_decisions.md D7; log 7). -/
opaque Config.flagsReserved : Word

/-- The free values: `freeWord n` is the `n`-th value about which nothing is known (`undefined_N` of 00_scope.md R8, a draw;
92_eei_decisions.md D20; log 11). -/
opaque Config.freeWord : Nat → Word

/-- `IO_ORACLE`: what the environment answers to a byte read of a port, at the `n`-th draw (20_memory.md R62; log 29). -/
opaque Config.portInput8 : Nat → Word → Byte

/-- `IO_ORACLE`: what the environment answers to a word read of a port, at the `n`-th draw (20_memory.md R62; log 29). -/
opaque Config.portInput16 : Nat → Word → Word

end Sys2Proof
end

