-- ==== Sys2Proof/Syntax.lean ====
section
/-! DEFINITION. The instructions: one constructor of `Instr` per instruction rule of files 40 to 45, and inside its operand
type one constructor per row of opcode_table.json that shares the rule, so that every row of the table is one constructor
path and every encoding has its own term. -/

namespace Sys2Proof

/-- The 16-bit general registers, in the order of 30_encoding.md R84. -/
inductive Reg16 where
  | ax | cx | dx | bx | sp | bp | si | di
deriving DecidableEq, Repr

/-- The 8-bit registers, in the order of 30_encoding.md R84. -/
inductive Reg8 where
  | al | cl | dl | bl | ah | ch | dh | bh
deriving DecidableEq, Repr

/-- The segment registers, in the order of 30_encoding.md R84. -/
inductive SegReg where
  | es | cs | ss | ds
deriving DecidableEq, Repr

/-- The eight base and index combinations of an effective address, in the order of the `r/m` field (30_encoding.md R85). -/
inductive Base where
  | bxSi | bxDi | bpSi | bpDi | si | di | bp | bx
deriving DecidableEq, Repr

/-- The displacement of an effective address: absent, a sign-extended byte, or a word (20_memory.md R55). -/
inductive Disp where
  | none
  | d8 (d : Byte)
  | d16 (d : Word)
deriving DecidableEq, Repr

/-- A memory operand (20_memory.md R55, 30_encoding.md R85). -/
inductive MemOp where
  | /-- a 16-bit direct address -/ direct (offset : Word)
  | /-- base and index registers with a displacement -/ indexed (base : Base) (disp : Disp)
deriving DecidableEq, Repr

/-- A byte operand the ModRM `mod` and `r/m` fields name: `reg8|mem8`. -/
inductive RM8 where
  | reg (r : Reg8)
  | mem (m : MemOp)
deriving DecidableEq, Repr

/-- A word operand the ModRM `mod` and `r/m` fields name: `reg16|mem16`. -/
inductive RM16 where
  | reg (r : Reg16)
  | mem (m : MemOp)
deriving DecidableEq, Repr

/-- Operand width: the `w` bit (30_encoding.md R83). -/
inductive Width where
  | byte | word
deriving DecidableEq, Repr

/-- The six two-operand forms of 40_arithmetic.md R120, as the ten rows each of ADC, ADD, AND, CMP, OR, SBB, SUB and XOR has
in opcode_table.json. -/
inductive AluForm where
  | /-- `reg8|mem8, reg8` -/ rmReg8 (rm : RM8) (r : Reg8)
  | /-- `reg16|mem16, reg16` -/ rmReg16 (rm : RM16) (r : Reg16)
  | /-- `reg8, reg8|mem8` -/ regRm8 (r : Reg8) (rm : RM8)
  | /-- `reg16, reg16|mem16` -/ regRm16 (r : Reg16) (rm : RM16)
  | /-- `AL, immed8` -/ al (imm : Byte)
  | /-- `AX, immed` -/ ax (imm : Word)
  | /-- `reg8|mem8, immed8` (80H) -/ rmImm8 (rm : RM8) (imm : Byte)
  | /-- `reg16|mem16, immed` (81H) -/ rmImm16 (rm : RM16) (imm : Word)
  | /-- `reg8|mem8, immed8`, the alias 82H of 80H -/ rmImm8Alias (rm : RM8) (imm : Byte)
  | /-- `reg16|mem16, immed8` sign-extended (83H) -/ rmImmSx (rm : RM16) (imm : Byte)
deriving DecidableEq, Repr

/-- The six forms of TEST (41_logic_shift.md R164). -/
inductive TestForm where
  | rmReg8 (rm : RM8) (r : Reg8)
  | rmReg16 (rm : RM16) (r : Reg16)
  | al (imm : Byte)
  | ax (imm : Word)
  | rmImm8 (rm : RM8) (imm : Byte)
  | rmImm16 (rm : RM16) (imm : Word)
deriving DecidableEq, Repr

/-- A one-operand form, byte or word: NOT, NEG, MUL, IMUL, DIV, IDIV. -/
inductive UnaryForm where
  | rm8 (rm : RM8)
  | rm16 (rm : RM16)
deriving DecidableEq, Repr

/-- The three forms of INC and DEC (40_arithmetic.md R132, R137). -/
inductive IncForm where
  | reg16 (r : Reg16)
  | rm8 (rm : RM8)
  | rm16 (rm : RM16)
deriving DecidableEq, Repr

/-- The count of a shift or rotate: the immediate 1, an immediate byte, or CL (41_logic_shift.md R166). -/
inductive Count where
  | one
  | imm (n : Byte)
  | cl
deriving DecidableEq, Repr

/-- The six forms of a shift or rotate (41_logic_shift.md R166): byte or word destination with one of three counts. -/
inductive ShiftForm where
  | rm8 (rm : RM8) (c : Count)
  | rm16 (rm : RM16) (c : Count)
deriving DecidableEq, Repr

/-- The general forms of MOV (45_data_transfer.md R307). -/
inductive MovForm where
  | rmReg8 (rm : RM8) (r : Reg8)
  | rmReg16 (rm : RM16) (r : Reg16)
  | regRm8 (r : Reg8) (rm : RM8)
  | regRm16 (r : Reg16) (rm : RM16)
  | /-- `AL, mem8`, direct offset -/ alMem (offset : Word)
  | /-- `AX, mem16`, direct offset -/ axMem (offset : Word)
  | /-- `mem8, AL`, direct offset -/ memAl (offset : Word)
  | /-- `mem16, AX`, direct offset -/ memAx (offset : Word)
  | regImm8 (r : Reg8) (imm : Byte)
  | regImm16 (r : Reg16) (imm : Word)
  | rmImm8 (rm : RM8) (imm : Byte)
  | rmImm16 (rm : RM16) (imm : Word)
deriving DecidableEq, Repr

/-- The forms of XCHG with a ModRM byte (45_data_transfer.md R318). -/
inductive XchgForm where
  | rmReg8 (rm : RM8) (r : Reg8)
  | rmReg16 (rm : RM16) (r : Reg16)
deriving DecidableEq, Repr

/-- The port of IN and OUT: an immediate byte or DX (45_data_transfer.md R302, R303). -/
inductive Port where
  | imm (p : Byte)
  | dx
deriving DecidableEq, Repr

/-- The instructions of Table C-4 (00_scope.md R3), with the family forms of 40_arithmetic.md R136 and 45_data_transfer.md
R315, and the prefixes of 30_encoding.md R82. -/
inductive Instr where
  -- 40_arithmetic.md
  | aaa
  | aad
  | aam
  | aas
  | adc (f : AluForm)
  | add (f : AluForm)
  | cbw
  | cmp (f : AluForm)
  | cwd
  | daa
  | das
  | dec (f : IncForm)
  | div (f : UnaryForm)
  | idiv (f : UnaryForm)
  | imul (f : UnaryForm)
  | /-- `IMUL reg16, reg16|mem16, immed` (69H) -/ imulImm16 (r : Reg16) (rm : RM16) (imm : Word)
  | /-- `IMUL reg16, reg16|mem16, immed8` sign-extended (6BH) -/ imulImm8 (r : Reg16) (rm : RM16) (imm : Byte)
  | inc (f : IncForm)
  | mul (f : UnaryForm)
  | neg (f : UnaryForm)
  | sbb (f : AluForm)
  | sub (f : AluForm)
  -- 41_logic_shift.md
  | and (f : AluForm)
  | not (f : UnaryForm)
  | or (f : AluForm)
  | test (f : TestForm)
  | xor (f : AluForm)
  | rcl (f : ShiftForm)
  | rcr (f : ShiftForm)
  | rol (f : ShiftForm)
  | ror (f : ShiftForm)
  | shl (f : ShiftForm)
  | sar (f : ShiftForm)
  | shr (f : ShiftForm)
  -- 42_control_transfer.md
  | bound (r : Reg16) (m : MemOp)
  | callNear (disp : Word)
  | callNearInd (rm : RM16)
  | callFar (offset segment : Word)
  | callFarInd (m : MemOp)
  | int (t : Byte)
  | int3
  | into
  | iret
  | ja (disp : Byte)
  | jae (disp : Byte)
  | jb (disp : Byte)
  | jbe (disp : Byte)
  | jcxz (disp : Byte)
  | je (disp : Byte)
  | jg (disp : Byte)
  | jge (disp : Byte)
  | jl (disp : Byte)
  | jle (disp : Byte)
  | jne (disp : Byte)
  | jno (disp : Byte)
  | jns (disp : Byte)
  | jnp (disp : Byte)
  | jo (disp : Byte)
  | jp (disp : Byte)
  | js (disp : Byte)
  | jmpShort (disp : Byte)
  | jmpNear (disp : Word)
  | jmpNearInd (rm : RM16)
  | jmpFar (offset segment : Word)
  | jmpFarInd (m : MemOp)
  | loop (disp : Byte)
  | loope (disp : Byte)
  | loopne (disp : Byte)
  | ret
  | retPop (n : Word)
  | retFar
  | retFarPop (n : Word)
  -- 43_flag_processor_control.md
  | clc
  | cld
  | cli
  | cmc
  | stc
  | std
  | sti
  | lahf
  | sahf
  | nop
  | lock
  | seg (r : SegReg)
  | esc (opcode : BitVec 6) (rm : RM16)
  | hlt
  | wait
  -- 44_string.md
  | cmps (w : Width)
  | ins (w : Width)
  | lods (w : Width)
  | movs (w : Width)
  | outs (w : Width)
  | scas (w : Width)
  | stos (w : Width)
  | rep
  | repne
  -- 45_data_transfer.md
  | enter (locals : Word) (level : Byte)
  | leave
  | inPort (w : Width) (p : Port)
  | outPort (w : Width) (p : Port)
  | lds (r : Reg16) (m : MemOp)
  | lea (r : Reg16) (m : MemOp)
  | les (r : Reg16) (m : MemOp)
  | mov (f : MovForm)
  | movFromSeg (rm : RM16) (sr : SegReg)
  | movToSeg (sr : SegReg) (rm : RM16)
  | popReg (r : Reg16)
  | popRm (rm : RM16)
  | popSeg (sr : SegReg)
  | popa
  | popf
  | pushReg (r : Reg16)
  | pushRm (rm : RM16)
  | pushSeg (sr : SegReg)
  | /-- `PUSH immed` (68H) -/ pushImm16 (imm : Word)
  | /-- `PUSH immed8` sign-extended (6AH) -/ pushImm8 (imm : Byte)
  | pusha
  | pushf
  | xchg (f : XchgForm)
  | /-- `XCHG AX, reg16` (91H to 97H) -/ xchgAx (r : Reg16)
  | xlat
deriving DecidableEq, Repr

end Sys2Proof
end

