-- ==== Sys2Proof/WellFormed.lean ====
section
/-! DEFINITION. Which terms of `Instr` an encoding of 30_encoding.md stands for. The operand types already exclude a register
where memory is required (LEA, LDS, LES, BOUND, far indirect CALL and JMP: R91) and a wrong width; what is left to check is
here. -/

namespace Sys2Proof

/-- `[BP]` without a displacement has no encoding: `mod` = 00, `r/m` = 110 is the direct address (30_encoding.md R85). -/
def MemOp.wellFormed : MemOp → Bool
  | .indexed .bp .none => false
  | _ => true

def RM8.wellFormed : RM8 → Bool
  | .reg _ => true
  | .mem m => m.wellFormed

def RM16.wellFormed : RM16 → Bool
  | .reg _ => true
  | .mem m => m.wellFormed

def AluForm.wellFormed : AluForm → Bool
  | .rmReg8 rm _ | .regRm8 _ rm | .rmImm8 rm _ | .rmImm8Alias rm _ => rm.wellFormed
  | .rmReg16 rm _ | .regRm16 _ rm | .rmImm16 rm _ | .rmImmSx rm _ => rm.wellFormed
  | .al _ | .ax _ => true

def TestForm.wellFormed : TestForm → Bool
  | .rmReg8 rm _ | .rmImm8 rm _ => rm.wellFormed
  | .rmReg16 rm _ | .rmImm16 rm _ => rm.wellFormed
  | .al _ | .ax _ => true

def UnaryForm.wellFormed : UnaryForm → Bool
  | .rm8 rm => rm.wellFormed
  | .rm16 rm => rm.wellFormed

def IncForm.wellFormed : IncForm → Bool
  | .reg16 _ => true
  | .rm8 rm => rm.wellFormed
  | .rm16 rm => rm.wellFormed

def ShiftForm.wellFormed : ShiftForm → Bool
  | .rm8 rm _ => rm.wellFormed
  | .rm16 rm _ => rm.wellFormed

def MovForm.wellFormed : MovForm → Bool
  | .rmReg8 rm _ | .regRm8 _ rm | .rmImm8 rm _ => rm.wellFormed
  | .rmReg16 rm _ | .regRm16 _ rm | .rmImm16 rm _ => rm.wellFormed
  | .alMem _ | .axMem _ | .memAl _ | .memAx _ | .regImm8 _ _ | .regImm16 _ _ => true

def XchgForm.wellFormed : XchgForm → Bool
  | .rmReg8 rm _ => rm.wellFormed
  | .rmReg16 rm _ => rm.wellFormed

/-- The instructions that have an encoding. Refused besides ill-formed operands: MOV and POP into CS (45_data_transfer.md R308,
R310) and `XCHG AX, AX`, whose byte 90H is NOP (30_encoding.md R100). -/
def Instr.wellFormed : Instr → Bool
  | .adc f | .add f | .cmp f | .sbb f | .sub f | .and f | .or f | .xor f => f.wellFormed
  | .dec f | .inc f => f.wellFormed
  | .div f | .idiv f | .imul f | .mul f | .neg f | .not f => f.wellFormed
  | .imulImm16 _ rm _ | .imulImm8 _ rm _ => rm.wellFormed
  | .test f => f.wellFormed
  | .rcl f | .rcr f | .rol f | .ror f | .shl f | .sar f | .shr f => f.wellFormed
  | .bound _ m | .callFarInd m | .jmpFarInd m | .lds _ m | .lea _ m | .les _ m => m.wellFormed
  | .callNearInd rm | .jmpNearInd rm | .esc _ rm | .popRm rm | .pushRm rm | .movFromSeg rm _ => rm.wellFormed
  | .mov f => f.wellFormed
  | .movToSeg sr rm => sr != .cs && rm.wellFormed
  | .popSeg sr => sr != .cs
  | .xchg f => f.wellFormed
  | .xchgAx r => r != .ax
  | .aaa | .aad | .aam | .aas | .cbw | .cwd | .daa | .das => true
  | .callNear _ | .callFar _ _ | .int _ | .int3 | .into | .iret => true
  | .ja _ | .jae _ | .jb _ | .jbe _ | .jcxz _ | .je _ | .jg _ | .jge _ | .jl _ | .jle _ | .jne _ | .jno _ | .jns _ | .jnp _
  | .jo _ | .jp _ | .js _ => true
  | .jmpShort _ | .jmpNear _ | .jmpFar _ _ | .loop _ | .loope _ | .loopne _ => true
  | .ret | .retPop _ | .retFar | .retFarPop _ => true
  | .clc | .cld | .cli | .cmc | .stc | .std | .sti | .lahf | .sahf | .nop | .lock | .seg _ | .hlt | .wait => true
  | .cmps _ | .ins _ | .lods _ | .movs _ | .outs _ | .scas _ | .stos _ | .rep | .repne => true
  | .enter _ _ | .leave | .inPort _ _ | .outPort _ _ => true
  | .popReg _ | .popa | .popf | .pushReg _ | .pushSeg _ | .pushImm16 _ | .pushImm8 _ | .pusha | .pushf | .xlat => true

end Sys2Proof
end

