-- ==== Sys2Proof/Decode.lean ====
section
/-! DEFINITION. The decoder of 30_encoding.md, total on any bytes, rejecting by name; after it the encoder. A prefix byte
decodes to an instruction of its own (log 1). All encodings are the spec's general knowledge (30_encoding.md R80; log 2). -/

namespace Sys2Proof

/-- Instruction bytes at ascending offsets (30_encoding.md R81). -/
abbrev Bytes := List Byte

/-- Why bytes are no instruction. All but `truncated` and `decimalBase` are the undefined encodings of 30_encoding.md R91. -/
inductive DecodeError where
  | /-- the bytes end inside the instruction -/ truncated
  | /-- an opcode outside the map of R90 -/ undefinedOpcode (op : Byte)
  | /-- a group member R92 leaves undefined -/ undefinedGroup (op : Byte) (ext : BitVec 3)
  | /-- a register where memory is required (`mod` = 11) -/ registerOperand (op : Byte)
  | /-- a segment register number above 3 in 8CH or 8EH -/ segmentNumber (op : Byte) (n : BitVec 3)
  | /-- 8EH with `reg` = 001, MOV to CS -/ codeSegmentLoad
  | /-- AAM or AAD with a second byte other than 0AH (R99) -/ decimalBase (op base : Byte)
deriving DecidableEq, Repr

/-- A value read from the front of the bytes, with the bytes left. -/
abbrev Decoded (α : Type) := Except DecodeError (α × Bytes)

/-! ### Fields -/

def Reg16.num : Reg16 → BitVec 3
  | .ax => 0 | .cx => 1 | .dx => 2 | .bx => 3 | .sp => 4 | .bp => 5 | .si => 6 | .di => 7

def Reg16.ofNum (n : BitVec 3) : Reg16 :=
  match n.toNat with
  | 0 => .ax | 1 => .cx | 2 => .dx | 3 => .bx | 4 => .sp | 5 => .bp | 6 => .si | _ => .di

def Reg8.num : Reg8 → BitVec 3
  | .al => 0 | .cl => 1 | .dl => 2 | .bl => 3 | .ah => 4 | .ch => 5 | .dh => 6 | .bh => 7

def Reg8.ofNum (n : BitVec 3) : Reg8 :=
  match n.toNat with
  | 0 => .al | 1 => .cl | 2 => .dl | 3 => .bl | 4 => .ah | 5 => .ch | 6 => .dh | _ => .bh

def SegReg.num : SegReg → BitVec 3
  | .es => 0 | .cs => 1 | .ss => 2 | .ds => 3

/-- The segment register a three-bit field names; none for 4 to 7 (30_encoding.md R91). -/
def SegReg.ofNum (n : BitVec 3) : Option SegReg :=
  match n.toNat with
  | 0 => some .es | 1 => some .cs | 2 => some .ss | 3 => some .ds | _ => none

def Base.num : Base → BitVec 3
  | .bxSi => 0 | .bxDi => 1 | .bpSi => 2 | .bpDi => 3 | .si => 4 | .di => 5 | .bp => 6 | .bx => 7

def Base.ofNum (n : BitVec 3) : Base :=
  match n.toNat with
  | 0 => .bxSi | 1 => .bxDi | 2 => .bpSi | 3 => .bpDi | 4 => .si | 5 => .di | 6 => .bp | _ => .bx

/-- What `mod` and `r/m` name before the width is known: a register number or a memory operand (30_encoding.md R85). -/
inductive RawRM where
  | reg (n : BitVec 3)
  | mem (m : MemOp)
deriving DecidableEq, Repr

def RawRM.as8 : RawRM → RM8
  | .reg n => .reg (Reg8.ofNum n)
  | .mem m => .mem m

def RawRM.as16 : RawRM → RM16
  | .reg n => .reg (Reg16.ofNum n)
  | .mem m => .mem m

def RM8.raw : RM8 → RawRM
  | .reg r => .reg r.num
  | .mem m => .mem m

def RM16.raw : RM16 → RawRM
  | .reg r => .reg r.num
  | .mem m => .mem m

/-! ### Reading bytes -/

/-- An `ib` or `cb` (30_encoding.md R88, R89). -/
def takeByte : Bytes → Decoded Byte
  | b :: t => .ok (b, t)
  | [] => .error .truncated

/-- An `iw` or `cw`, low byte first (30_encoding.md R88). -/
def takeWord : Bytes → Decoded Word
  | lo :: hi :: t => .ok (Byte.pair hi lo, t)
  | _ => .error .truncated

/-- The memory operand of `mod` 00, 01 or 10 (30_encoding.md R85, R86). -/
def takeMemOp (mod : BitVec 2) (rm : BitVec 3) (t : Bytes) : Decoded MemOp :=
  match mod.toNat with
  | 0 =>
    if rm = 6 then
      match takeWord t with
      | .ok (o, t) => .ok (.direct o, t)
      | .error e => .error e
    else .ok (.indexed (Base.ofNum rm) .none, t)
  | 1 =>
    match takeByte t with
    | .ok (d, t) => .ok (.indexed (Base.ofNum rm) (.d8 d), t)
    | .error e => .error e
  | _ =>
    match takeWord t with
    | .ok (d, t) => .ok (.indexed (Base.ofNum rm) (.d16 d), t)
    | .error e => .error e

/-- The ModRM byte and its displacement: the `reg` field and the operand (30_encoding.md R85). -/
def takeModRM : Bytes → Decoded (BitVec 3 × RawRM)
  | [] => .error .truncated
  | b :: t =>
    let mod : BitVec 2 := b.extractLsb' 6 2
    let reg : BitVec 3 := b.extractLsb' 3 3
    let rm : BitVec 3 := b.extractLsb' 0 3
    if mod = 3 then .ok ((reg, .reg rm), t)
    else
      match takeMemOp mod rm t with
      | .ok (m, t) => .ok ((reg, .mem m), t)
      | .error e => .error e

/-! ### Reading operands, then continuing -/

def withByte (t : Bytes) (k : Byte → Instr) : Decoded Instr :=
  match takeByte t with
  | .ok (b, t) => .ok (k b, t)
  | .error e => .error e

def withWord (t : Bytes) (k : Word → Instr) : Decoded Instr :=
  match takeWord t with
  | .ok (w, t) => .ok (k w, t)
  | .error e => .error e

/-- ModRM with an operand of either kind; `k` gets the `reg` field, the operand and the bytes after it. -/
def withModRM (t : Bytes) (k : BitVec 3 → RawRM → Bytes → Decoded Instr) : Decoded Instr :=
  match takeModRM t with
  | .ok (x, t) => k x.1 x.2 t
  | .error e => .error e

/-- ModRM with nothing after it. -/
def withRM (t : Bytes) (k : BitVec 3 → RawRM → Instr) : Decoded Instr :=
  withModRM t fun reg rm t => .ok (k reg rm, t)

/-- ModRM whose operand must be memory (30_encoding.md R91). -/
def withMem (op : Byte) (t : Bytes) (k : BitVec 3 → MemOp → Instr) : Decoded Instr :=
  withModRM t fun reg rm t =>
    match rm with
    | .mem m => .ok (k reg m, t)
    | .reg _ => .error (.registerOperand op)

/-- A group member with its `reg` field as extension (30_encoding.md R92); `none` is an undefined member. -/
def withGroup (op : Byte) (t : Bytes) (k : BitVec 3 → RawRM → Option Instr) : Decoded Instr :=
  withModRM t fun reg rm t =>
    match k reg rm with
    | some i => .ok (i, t)
    | none => .error (.undefinedGroup op reg)

/-- A segment register in the `reg` field (8CH, 8EH). -/
def withSegRM (op : Byte) (t : Bytes) (k : SegReg → RawRM → Except DecodeError Instr) : Decoded Instr :=
  withModRM t fun reg rm t =>
    match SegReg.ofNum reg with
    | some sr =>
      match k sr rm with
      | .ok i => .ok (i, t)
      | .error e => .error e
    | none => .error (.segmentNumber op reg)

/-! ### The groups -/

/-- The eight operations that share the six forms, by base opcode or group-1 extension (30_encoding.md R92). -/
def aluInstr (n : BitVec 3) (f : AluForm) : Instr :=
  match n.toNat with
  | 0 => .add f | 1 => .or f | 2 => .adc f | 3 => .sbb f | 4 => .and f | 5 => .sub f | 6 => .xor f | _ => .cmp f

/-- Group 2, the shifts and rotates (30_encoding.md R92). -/
def shiftInstr (n : BitVec 3) (f : ShiftForm) : Option Instr :=
  match n.toNat with
  | 0 => some (.rol f) | 1 => some (.ror f) | 2 => some (.rcl f) | 3 => some (.rcr f)
  | 4 => some (.shl f) | 5 => some (.shr f) | 6 => none | _ => some (.sar f)

/-- Group 3 without TEST (30_encoding.md R92). -/
def unaryInstr (n : BitVec 3) (f : UnaryForm) : Option Instr :=
  match n.toNat with
  | 2 => some (.not f) | 3 => some (.neg f) | 4 => some (.mul f) | 5 => some (.imul f)
  | 6 => some (.div f) | 7 => some (.idiv f) | _ => none

/-- The conditional jumps 70H to 7FH (30_encoding.md R92). -/
def jccInstr (cc : Nat) (d : Byte) : Instr :=
  match cc with
  | 0x0 => .jo d | 0x1 => .jno d | 0x2 => .jb d | 0x3 => .jae d | 0x4 => .je d | 0x5 => .jne d | 0x6 => .jbe d
  | 0x7 => .ja d | 0x8 => .js d | 0x9 => .jns d | 0xA => .jp d | 0xB => .jnp d | 0xC => .jl d | 0xD => .jge d
  | 0xE => .jle d | _ => .jg d

/-- Group 1: an immediate after the operand (30_encoding.md R90: 80H to 83H). -/
def withGroup1 (t : Bytes) (k : RawRM → Bytes → Decoded AluForm) : Decoded Instr :=
  withModRM t fun reg rm t =>
    match k rm t with
    | .ok (f, t) => .ok (aluInstr reg f, t)
    | .error e => .error e

def immByteForm (f : Byte → AluForm) (t : Bytes) : Decoded AluForm :=
  match takeByte t with
  | .ok (b, t) => .ok (f b, t)
  | .error e => .error e

def immWordForm (f : Word → AluForm) (t : Bytes) : Decoded AluForm :=
  match takeWord t with
  | .ok (w, t) => .ok (f w, t)
  | .error e => .error e

/-- Group 3: TEST with an immediate for /0, else a one-operand instruction (30_encoding.md R86, R92). -/
def withGroup3 (op : Byte) (t : Bytes) (test : RawRM → Bytes → Decoded Instr) (form : RawRM → UnaryForm) : Decoded Instr :=
  withModRM t fun reg rm t =>
    if reg = 0 then test rm t
    else
      match unaryInstr reg (form rm) with
      | some i => .ok (i, t)
      | none => .error (.undefinedGroup op reg)

/-- A group that has only member /0, with what follows the operand (8FH, C6H, C7H). -/
def withOnly0 (op : Byte) (t : Bytes) (k : RawRM → Bytes → Decoded Instr) : Decoded Instr :=
  withModRM t fun reg rm t => if reg = 0 then k rm t else .error (.undefinedGroup op reg)

/-- Group 2 with an immediate count (C0H, C1H). -/
def withShiftImm (op : Byte) (t : Bytes) (form : RawRM → Count → ShiftForm) : Decoded Instr :=
  withModRM t fun reg rm t =>
    match takeByte t with
    | .ok (n, t) =>
      match shiftInstr reg (form rm (.imm n)) with
      | some i => .ok (i, t)
      | none => .error (.undefinedGroup op reg)
    | .error e => .error e

def shift8 (rm : RawRM) (c : Count) : ShiftForm := .rm8 rm.as8 c
def shift16 (rm : RawRM) (c : Count) : ShiftForm := .rm16 rm.as16 c

/-! ### The opcode map, 30_encoding.md R90 -/

/-- 00H to 3FH: eight columns; bits 5 to 3 choose the operation or the segment register. -/
def decode0to3 (op : Byte) (t : Bytes) : Decoded Instr :=
  let a : BitVec 3 := op.extractLsb' 3 3
  match (op.extractLsb' 0 3).toNat with
  | 0 => withRM t fun reg rm => aluInstr a (.rmReg8 rm.as8 (Reg8.ofNum reg))
  | 1 => withRM t fun reg rm => aluInstr a (.rmReg16 rm.as16 (Reg16.ofNum reg))
  | 2 => withRM t fun reg rm => aluInstr a (.regRm8 (Reg8.ofNum reg) rm.as8)
  | 3 => withRM t fun reg rm => aluInstr a (.regRm16 (Reg16.ofNum reg) rm.as16)
  | 4 => withByte t fun b => aluInstr a (.al b)
  | 5 => withWord t fun w => aluInstr a (.ax w)
  | 6 =>
    match a.toNat with
    | 0 => .ok (.pushSeg .es, t)
    | 1 => .ok (.pushSeg .cs, t)
    | 2 => .ok (.pushSeg .ss, t)
    | 3 => .ok (.pushSeg .ds, t)
    | 4 => .ok (.seg .es, t)
    | 5 => .ok (.seg .cs, t)
    | 6 => .ok (.seg .ss, t)
    | _ => .ok (.seg .ds, t)
  | _ =>
    match a.toNat with
    | 0 => .ok (.popSeg .es, t)
    | 1 => .error (.undefinedOpcode op)
    | 2 => .ok (.popSeg .ss, t)
    | 3 => .ok (.popSeg .ds, t)
    | 4 => .ok (.daa, t)
    | 5 => .ok (.das, t)
    | 6 => .ok (.aaa, t)
    | _ => .ok (.aas, t)

/-- 40H to 5FH: INC, DEC, PUSH, POP of a 16-bit register. -/
def decode4to5 (op : Byte) (t : Bytes) : Decoded Instr :=
  let r := Reg16.ofNum (op.extractLsb' 0 3)
  match (op.extractLsb' 3 3).toNat with
  | 0 => .ok (.inc (.reg16 r), t)
  | 1 => .ok (.dec (.reg16 r), t)
  | 2 => .ok (.pushReg r, t)
  | _ => .ok (.popReg r, t)

/-- 60H to 6FH. -/
def decode6 (op : Byte) (t : Bytes) : Decoded Instr :=
  match (op.extractLsb' 0 4).toNat with
  | 0x0 => .ok (.pusha, t)
  | 0x1 => .ok (.popa, t)
  | 0x2 => withMem op t fun reg m => .bound (Reg16.ofNum reg) m
  | 0x8 => withWord t .pushImm16
  | 0x9 => withModRM t fun reg rm t => withWord t (.imulImm16 (Reg16.ofNum reg) rm.as16)
  | 0xA => withByte t .pushImm8
  | 0xB => withModRM t fun reg rm t => withByte t (.imulImm8 (Reg16.ofNum reg) rm.as16)
  | 0xC => .ok (.ins .byte, t)
  | 0xD => .ok (.ins .word, t)
  | 0xE => .ok (.outs .byte, t)
  | 0xF => .ok (.outs .word, t)
  | _ => .error (.undefinedOpcode op)

/-- 80H to 8FH. -/
def decode8 (op : Byte) (t : Bytes) : Decoded Instr :=
  match (op.extractLsb' 0 4).toNat with
  | 0x0 => withGroup1 t fun rm => immByteForm (.rmImm8 rm.as8)
  | 0x1 => withGroup1 t fun rm => immWordForm (.rmImm16 rm.as16)
  | 0x2 => withGroup1 t fun rm => immByteForm (.rmImm8Alias rm.as8)
  | 0x3 => withGroup1 t fun rm => immByteForm (.rmImmSx rm.as16)
  | 0x4 => withRM t fun reg rm => .test (.rmReg8 rm.as8 (Reg8.ofNum reg))
  | 0x5 => withRM t fun reg rm => .test (.rmReg16 rm.as16 (Reg16.ofNum reg))
  | 0x6 => withRM t fun reg rm => .xchg (.rmReg8 rm.as8 (Reg8.ofNum reg))
  | 0x7 => withRM t fun reg rm => .xchg (.rmReg16 rm.as16 (Reg16.ofNum reg))
  | 0x8 => withRM t fun reg rm => .mov (.rmReg8 rm.as8 (Reg8.ofNum reg))
  | 0x9 => withRM t fun reg rm => .mov (.rmReg16 rm.as16 (Reg16.ofNum reg))
  | 0xA => withRM t fun reg rm => .mov (.regRm8 (Reg8.ofNum reg) rm.as8)
  | 0xB => withRM t fun reg rm => .mov (.regRm16 (Reg16.ofNum reg) rm.as16)
  | 0xC => withSegRM op t fun sr rm => .ok (.movFromSeg rm.as16 sr)
  | 0xD => withMem op t fun reg m => .lea (Reg16.ofNum reg) m
  | 0xE => withSegRM op t fun sr rm => if sr = .cs then .error .codeSegmentLoad else .ok (.movToSeg sr rm.as16)
  | _ => withOnly0 op t fun rm t => .ok (.popRm rm.as16, t)

/-- 90H to 9FH. -/
def decode9 (op : Byte) (t : Bytes) : Decoded Instr :=
  match (op.extractLsb' 0 4).toNat with
  | 0x0 => .ok (.nop, t)
  | 0x1 => .ok (.xchgAx .cx, t)
  | 0x2 => .ok (.xchgAx .dx, t)
  | 0x3 => .ok (.xchgAx .bx, t)
  | 0x4 => .ok (.xchgAx .sp, t)
  | 0x5 => .ok (.xchgAx .bp, t)
  | 0x6 => .ok (.xchgAx .si, t)
  | 0x7 => .ok (.xchgAx .di, t)
  | 0x8 => .ok (.cbw, t)
  | 0x9 => .ok (.cwd, t)
  | 0xA =>
    match takeWord t with
    | .ok (o, t) => withWord t (.callFar o)
    | .error e => .error e
  | 0xB => .ok (.wait, t)
  | 0xC => .ok (.pushf, t)
  | 0xD => .ok (.popf, t)
  | 0xE => .ok (.sahf, t)
  | _ => .ok (.lahf, t)

/-- A0H to AFH. -/
def decodeA (op : Byte) (t : Bytes) : Decoded Instr :=
  match (op.extractLsb' 0 4).toNat with
  | 0x0 => withWord t fun o => .mov (.alMem o)
  | 0x1 => withWord t fun o => .mov (.axMem o)
  | 0x2 => withWord t fun o => .mov (.memAl o)
  | 0x3 => withWord t fun o => .mov (.memAx o)
  | 0x4 => .ok (.movs .byte, t)
  | 0x5 => .ok (.movs .word, t)
  | 0x6 => .ok (.cmps .byte, t)
  | 0x7 => .ok (.cmps .word, t)
  | 0x8 => withByte t fun b => .test (.al b)
  | 0x9 => withWord t fun w => .test (.ax w)
  | 0xA => .ok (.stos .byte, t)
  | 0xB => .ok (.stos .word, t)
  | 0xC => .ok (.lods .byte, t)
  | 0xD => .ok (.lods .word, t)
  | 0xE => .ok (.scas .byte, t)
  | _ => .ok (.scas .word, t)

/-- B0H to BFH: MOV of an immediate to a register. -/
def decodeB (op : Byte) (t : Bytes) : Decoded Instr :=
  if op.extractLsb' 3 1 = 0 then withByte t fun b => .mov (.regImm8 (Reg8.ofNum (op.extractLsb' 0 3)) b)
  else withWord t fun w => .mov (.regImm16 (Reg16.ofNum (op.extractLsb' 0 3)) w)

/-- C0H to CFH. -/
def decodeC (op : Byte) (t : Bytes) : Decoded Instr :=
  match (op.extractLsb' 0 4).toNat with
  | 0x0 => withShiftImm op t shift8
  | 0x1 => withShiftImm op t shift16
  | 0x2 => withWord t .retPop
  | 0x3 => .ok (.ret, t)
  | 0x4 => withMem op t fun reg m => .les (Reg16.ofNum reg) m
  | 0x5 => withMem op t fun reg m => .lds (Reg16.ofNum reg) m
  | 0x6 => withOnly0 op t fun rm t => withByte t fun b => .mov (.rmImm8 rm.as8 b)
  | 0x7 => withOnly0 op t fun rm t => withWord t fun w => .mov (.rmImm16 rm.as16 w)
  | 0x8 =>
    match takeWord t with
    | .ok (n, t) => withByte t (.enter n)
    | .error e => .error e
  | 0x9 => .ok (.leave, t)
  | 0xA => withWord t .retFarPop
  | 0xB => .ok (.retFar, t)
  | 0xC => .ok (.int3, t)
  | 0xD => withByte t .int
  | 0xE => .ok (.into, t)
  | _ => .ok (.iret, t)

/-- AAM and AAD: the second byte must be the base ten (30_encoding.md R99; log 20). -/
def withDecimalBase (op : Byte) (t : Bytes) (i : Instr) : Decoded Instr :=
  match takeByte t with
  | .ok (b, t) => if b = Config.decimalBase then .ok (i, t) else .error (.decimalBase op b)
  | .error e => .error e

/-- D0H to DFH. -/
def decodeD (op : Byte) (t : Bytes) : Decoded Instr :=
  match (op.extractLsb' 0 4).toNat with
  | 0x0 => withGroup op t fun reg rm => shiftInstr reg (shift8 rm .one)
  | 0x1 => withGroup op t fun reg rm => shiftInstr reg (shift16 rm .one)
  | 0x2 => withGroup op t fun reg rm => shiftInstr reg (shift8 rm .cl)
  | 0x3 => withGroup op t fun reg rm => shiftInstr reg (shift16 rm .cl)
  | 0x4 => withDecimalBase op t .aam
  | 0x5 => withDecimalBase op t .aad
  | 0x6 => .error (.undefinedOpcode op)
  | 0x7 => .ok (.xlat, t)
  | _ => withRM t fun reg rm => .esc (op.extractLsb' 0 3 ++ reg) rm.as16

/-- E0H to EFH. -/
def decodeE (op : Byte) (t : Bytes) : Decoded Instr :=
  match (op.extractLsb' 0 4).toNat with
  | 0x0 => withByte t .loopne
  | 0x1 => withByte t .loope
  | 0x2 => withByte t .loop
  | 0x3 => withByte t .jcxz
  | 0x4 => withByte t fun p => .inPort .byte (.imm p)
  | 0x5 => withByte t fun p => .inPort .word (.imm p)
  | 0x6 => withByte t fun p => .outPort .byte (.imm p)
  | 0x7 => withByte t fun p => .outPort .word (.imm p)
  | 0x8 => withWord t .callNear
  | 0x9 => withWord t .jmpNear
  | 0xA =>
    match takeWord t with
    | .ok (o, t) => withWord t (.jmpFar o)
    | .error e => .error e
  | 0xB => withByte t .jmpShort
  | 0xC => .ok (.inPort .byte .dx, t)
  | 0xD => .ok (.inPort .word .dx, t)
  | 0xE => .ok (.outPort .byte .dx, t)
  | _ => .ok (.outPort .word .dx, t)

/-- Group 4 (FEH) and group 5 (FFH) without the far forms (30_encoding.md R92). -/
def group4 (n : BitVec 3) (rm : RawRM) : Option Instr :=
  match n.toNat with
  | 0 => some (.inc (.rm8 rm.as8)) | 1 => some (.dec (.rm8 rm.as8)) | _ => none

def group5 (op : Byte) (n : BitVec 3) (rm : RawRM) : Except DecodeError Instr :=
  match n.toNat, rm with
  | 0, _ => .ok (.inc (.rm16 rm.as16))
  | 1, _ => .ok (.dec (.rm16 rm.as16))
  | 2, _ => .ok (.callNearInd rm.as16)
  | 3, .mem m => .ok (.callFarInd m)
  | 4, _ => .ok (.jmpNearInd rm.as16)
  | 5, .mem m => .ok (.jmpFarInd m)
  | 6, _ => .ok (.pushRm rm.as16)
  | 3, .reg _ => .error (.registerOperand op)
  | 5, .reg _ => .error (.registerOperand op)
  | _, _ => .error (.undefinedGroup op n)

/-- F0H to FFH. -/
def decodeF (op : Byte) (t : Bytes) : Decoded Instr :=
  match (op.extractLsb' 0 4).toNat with
  | 0x0 => .ok (.lock, t)
  | 0x2 => .ok (.repne, t)
  | 0x3 => .ok (.rep, t)
  | 0x4 => .ok (.hlt, t)
  | 0x5 => .ok (.cmc, t)
  | 0x6 => withGroup3 op t (fun rm t => withByte t fun b => .test (.rmImm8 rm.as8 b)) fun rm => .rm8 rm.as8
  | 0x7 => withGroup3 op t (fun rm t => withWord t fun w => .test (.rmImm16 rm.as16 w)) fun rm => .rm16 rm.as16
  | 0x8 => .ok (.clc, t)
  | 0x9 => .ok (.stc, t)
  | 0xA => .ok (.cli, t)
  | 0xB => .ok (.sti, t)
  | 0xC => .ok (.cld, t)
  | 0xD => .ok (.std, t)
  | 0xE => withGroup op t group4
  | 0xF => withModRM t fun reg rm t =>
      match group5 op reg rm with
      | .ok i => .ok (i, t)
      | .error e => .error e
  | _ => .error (.undefinedOpcode op)

/-- The instruction whose opcode byte is `op` and whose following bytes are `t` (30_encoding.md R90). -/
def decodeOp (op : Byte) (t : Bytes) : Decoded Instr :=
  match (op.extractLsb' 4 4).toNat with
  | 0x0 => decode0to3 op t
  | 0x1 => decode0to3 op t
  | 0x2 => decode0to3 op t
  | 0x3 => decode0to3 op t
  | 0x4 => decode4to5 op t
  | 0x5 => decode4to5 op t
  | 0x6 => decode6 op t
  | 0x7 => withByte t (jccInstr (op.extractLsb' 0 4).toNat)
  | 0x8 => decode8 op t
  | 0x9 => decode9 op t
  | 0xA => decodeA op t
  | 0xB => decodeB op t
  | 0xC => decodeC op t
  | 0xD => decodeD op t
  | 0xE => decodeE op t
  | _ => decodeF op t

/-- The instruction at the front of the bytes, with the bytes after it. -/
def decode : Bytes → Decoded Instr
  | op :: t => decodeOp op t
  | [] => .error .truncated

/-! ### The encoder -/

/-- A word as two bytes, low byte first (30_encoding.md R88). -/
def wordBytes (w : Word) : Bytes := [w.lo, w.hi]

/-- The ModRM byte: `mod`, `reg`, `r/m` from bit 7 down (30_encoding.md R85). -/
def modrmByte (mod : BitVec 2) (reg rm : BitVec 3) : Byte := mod ++ (reg ++ rm)

/-- The ModRM byte and displacement of an operand (30_encoding.md R85). -/
def encodeRM (reg : BitVec 3) : RawRM → Bytes
  | .reg n => [modrmByte 3 reg n]
  | .mem (.direct o) => modrmByte 0 reg 6 :: wordBytes o
  | .mem (.indexed b .none) => [modrmByte 0 reg b.num]
  | .mem (.indexed b (.d8 d)) => [modrmByte 1 reg b.num, d]
  | .mem (.indexed b (.d16 d)) => modrmByte 2 reg b.num :: wordBytes d

/-- The opcode `base` with a register number in bits 2 to 0 (format REG, 30_encoding.md R87). -/
def opReg (base : Byte) (n : BitVec 3) : Byte := base + n.zeroExtend 8

/-- The ten rows of an operation with base opcode `base` and group-1 extension `ext` (40_arithmetic.md R120). -/
def encodeAlu (base : Byte) (ext : BitVec 3) : AluForm → Bytes
  | .rmReg8 rm r => base :: encodeRM r.num rm.raw
  | .rmReg16 rm r => (base + 1) :: encodeRM r.num rm.raw
  | .regRm8 r rm => (base + 2) :: encodeRM r.num rm.raw
  | .regRm16 r rm => (base + 3) :: encodeRM r.num rm.raw
  | .al imm => [base + 4, imm]
  | .ax imm => (base + 5) :: wordBytes imm
  | .rmImm8 rm imm => 0x80 :: encodeRM ext rm.raw ++ [imm]
  | .rmImm16 rm imm => 0x81 :: encodeRM ext rm.raw ++ wordBytes imm
  | .rmImm8Alias rm imm => 0x82 :: encodeRM ext rm.raw ++ [imm]
  | .rmImmSx rm imm => 0x83 :: encodeRM ext rm.raw ++ [imm]

def encodeTest : TestForm → Bytes
  | .rmReg8 rm r => 0x84 :: encodeRM r.num rm.raw
  | .rmReg16 rm r => 0x85 :: encodeRM r.num rm.raw
  | .al imm => [0xA8, imm]
  | .ax imm => 0xA9 :: wordBytes imm
  | .rmImm8 rm imm => 0xF6 :: encodeRM 0 rm.raw ++ [imm]
  | .rmImm16 rm imm => 0xF7 :: encodeRM 0 rm.raw ++ wordBytes imm

/-- F6H and F7H with a group-3 extension. -/
def encodeUnary (ext : BitVec 3) : UnaryForm → Bytes
  | .rm8 rm => 0xF6 :: encodeRM ext rm.raw
  | .rm16 rm => 0xF7 :: encodeRM ext rm.raw

/-- INC and DEC: `base` + register, or FEH, FFH with the extension. -/
def encodeInc (base : Byte) (ext : BitVec 3) : IncForm → Bytes
  | .reg16 r => [opReg base r.num]
  | .rm8 rm => 0xFE :: encodeRM ext rm.raw
  | .rm16 rm => 0xFF :: encodeRM ext rm.raw

/-- The shifts and rotates (41_logic_shift.md R166). -/
def encodeShift (ext : BitVec 3) : ShiftForm → Bytes
  | .rm8 rm .one => 0xD0 :: encodeRM ext rm.raw
  | .rm16 rm .one => 0xD1 :: encodeRM ext rm.raw
  | .rm8 rm .cl => 0xD2 :: encodeRM ext rm.raw
  | .rm16 rm .cl => 0xD3 :: encodeRM ext rm.raw
  | .rm8 rm (.imm n) => 0xC0 :: encodeRM ext rm.raw ++ [n]
  | .rm16 rm (.imm n) => 0xC1 :: encodeRM ext rm.raw ++ [n]

def encodeMov : MovForm → Bytes
  | .rmReg8 rm r => 0x88 :: encodeRM r.num rm.raw
  | .rmReg16 rm r => 0x89 :: encodeRM r.num rm.raw
  | .regRm8 r rm => 0x8A :: encodeRM r.num rm.raw
  | .regRm16 r rm => 0x8B :: encodeRM r.num rm.raw
  | .alMem o => 0xA0 :: wordBytes o
  | .axMem o => 0xA1 :: wordBytes o
  | .memAl o => 0xA2 :: wordBytes o
  | .memAx o => 0xA3 :: wordBytes o
  | .regImm8 r imm => [opReg 0xB0 r.num, imm]
  | .regImm16 r imm => opReg 0xB8 r.num :: wordBytes imm
  | .rmImm8 rm imm => 0xC6 :: encodeRM 0 rm.raw ++ [imm]
  | .rmImm16 rm imm => 0xC7 :: encodeRM 0 rm.raw ++ wordBytes imm

def encodeXchg : XchgForm → Bytes
  | .rmReg8 rm r => 0x86 :: encodeRM r.num rm.raw
  | .rmReg16 rm r => 0x87 :: encodeRM r.num rm.raw

/-- A string primitive: the opcode with `w` in bit 0 (44_string.md R280). -/
def encodeString (op : Byte) : Width → Bytes
  | .byte => [op]
  | .word => [op + 1]

/-- IN and OUT: `imm` with an immediate port, `dx` through DX, `w` in bit 0 (45_data_transfer.md R302, R303). -/
def encodePort (imm dx : Byte) : Width → Port → Bytes
  | .byte, .imm p => [imm, p]
  | .word, .imm p => [imm + 1, p]
  | .byte, .dx => [dx]
  | .word, .dx => [dx + 1]

/-- The opcode byte with a segment register number in bits 4 and 3 (format SREG). -/
def opSeg (base : Byte) : SegReg → Byte
  | .es => base
  | .cs => base + 0x08
  | .ss => base + 0x10
  | .ds => base + 0x18

/-- The bytes of a well-formed instruction (30_encoding.md R81, R90, R92). -/
def encode : Instr → Bytes
  | .aaa => [0x37]
  | .aad => [0xD5, 0x0A]
  | .aam => [0xD4, 0x0A]
  | .aas => [0x3F]
  | .adc f => encodeAlu 0x10 2 f
  | .add f => encodeAlu 0x00 0 f
  | .cbw => [0x98]
  | .cmp f => encodeAlu 0x38 7 f
  | .cwd => [0x99]
  | .daa => [0x27]
  | .das => [0x2F]
  | .dec f => encodeInc 0x48 1 f
  | .div f => encodeUnary 6 f
  | .idiv f => encodeUnary 7 f
  | .imul f => encodeUnary 5 f
  | .imulImm16 r rm imm => 0x69 :: encodeRM r.num rm.raw ++ wordBytes imm
  | .imulImm8 r rm imm => 0x6B :: encodeRM r.num rm.raw ++ [imm]
  | .inc f => encodeInc 0x40 0 f
  | .mul f => encodeUnary 4 f
  | .neg f => encodeUnary 3 f
  | .sbb f => encodeAlu 0x18 3 f
  | .sub f => encodeAlu 0x28 5 f
  | .and f => encodeAlu 0x20 4 f
  | .not f => encodeUnary 2 f
  | .or f => encodeAlu 0x08 1 f
  | .test f => encodeTest f
  | .xor f => encodeAlu 0x30 6 f
  | .rcl f => encodeShift 2 f
  | .rcr f => encodeShift 3 f
  | .rol f => encodeShift 0 f
  | .ror f => encodeShift 1 f
  | .shl f => encodeShift 4 f
  | .sar f => encodeShift 7 f
  | .shr f => encodeShift 5 f
  | .bound r m => 0x62 :: encodeRM r.num (.mem m)
  | .callNear d => 0xE8 :: wordBytes d
  | .callNearInd rm => 0xFF :: encodeRM 2 rm.raw
  | .callFar o s => 0x9A :: wordBytes o ++ wordBytes s
  | .callFarInd m => 0xFF :: encodeRM 3 (.mem m)
  | .int t => [0xCD, t]
  | .int3 => [0xCC]
  | .into => [0xCE]
  | .iret => [0xCF]
  | .jo d => [0x70, d]
  | .jno d => [0x71, d]
  | .jb d => [0x72, d]
  | .jae d => [0x73, d]
  | .je d => [0x74, d]
  | .jne d => [0x75, d]
  | .jbe d => [0x76, d]
  | .ja d => [0x77, d]
  | .js d => [0x78, d]
  | .jns d => [0x79, d]
  | .jp d => [0x7A, d]
  | .jnp d => [0x7B, d]
  | .jl d => [0x7C, d]
  | .jge d => [0x7D, d]
  | .jle d => [0x7E, d]
  | .jg d => [0x7F, d]
  | .jcxz d => [0xE3, d]
  | .jmpShort d => [0xEB, d]
  | .jmpNear d => 0xE9 :: wordBytes d
  | .jmpNearInd rm => 0xFF :: encodeRM 4 rm.raw
  | .jmpFar o s => 0xEA :: wordBytes o ++ wordBytes s
  | .jmpFarInd m => 0xFF :: encodeRM 5 (.mem m)
  | .loop d => [0xE2, d]
  | .loope d => [0xE1, d]
  | .loopne d => [0xE0, d]
  | .ret => [0xC3]
  | .retPop n => 0xC2 :: wordBytes n
  | .retFar => [0xCB]
  | .retFarPop n => 0xCA :: wordBytes n
  | .clc => [0xF8]
  | .cld => [0xFC]
  | .cli => [0xFA]
  | .cmc => [0xF5]
  | .stc => [0xF9]
  | .std => [0xFD]
  | .sti => [0xFB]
  | .lahf => [0x9F]
  | .sahf => [0x9E]
  | .nop => [0x90]
  | .lock => [0xF0]
  | .seg r => [opSeg 0x26 r]
  | .esc op rm => opReg 0xD8 (op.extractLsb' 3 3) :: encodeRM (op.extractLsb' 0 3) rm.raw
  | .hlt => [0xF4]
  | .wait => [0x9B]
  | .cmps w => encodeString 0xA6 w
  | .ins w => encodeString 0x6C w
  | .lods w => encodeString 0xAC w
  | .movs w => encodeString 0xA4 w
  | .outs w => encodeString 0x6E w
  | .scas w => encodeString 0xAE w
  | .stos w => encodeString 0xAA w
  | .rep => [0xF3]
  | .repne => [0xF2]
  | .enter n l => 0xC8 :: wordBytes n ++ [l]
  | .leave => [0xC9]
  | .inPort w p => encodePort 0xE4 0xEC w p
  | .outPort w p => encodePort 0xE6 0xEE w p
  | .lds r m => 0xC5 :: encodeRM r.num (.mem m)
  | .lea r m => 0x8D :: encodeRM r.num (.mem m)
  | .les r m => 0xC4 :: encodeRM r.num (.mem m)
  | .mov f => encodeMov f
  | .movFromSeg rm sr => 0x8C :: encodeRM sr.num rm.raw
  | .movToSeg sr rm => 0x8E :: encodeRM sr.num rm.raw
  | .popReg r => [opReg 0x58 r.num]
  | .popRm rm => 0x8F :: encodeRM 0 rm.raw
  | .popSeg sr => [opSeg 0x07 sr]
  | .popa => [0x61]
  | .popf => [0x9D]
  | .pushReg r => [opReg 0x50 r.num]
  | .pushRm rm => 0xFF :: encodeRM 6 rm.raw
  | .pushSeg sr => [opSeg 0x06 sr]
  | .pushImm16 imm => 0x68 :: wordBytes imm
  | .pushImm8 imm => [0x6A, imm]
  | .pusha => [0x60]
  | .pushf => [0x9C]
  | .xchg f => encodeXchg f
  | .xchgAx r => [opReg 0x90 r.num]
  | .xlat => [0xD7]

/-! ### The opcode table's numbering -/

/-- The longest instruction without prefixes, in bytes (30_encoding.md R81). -/
def maxInstrBytes : Nat := 6

/-- Byte `k` of the number `w`, byte 0 the low-order one. -/
def natByte (w k : Nat) : Byte := BitVec.ofNat 8 (w / 2 ^ (8 * k))

/-- The instruction bytes of the number `w` as opcode_table.json numbers it (30_encoding.md R100): in each 16-bit number the
high byte is the byte at the lower address (the opcode byte for the first), every bit above `nbits` is 0 (log 41). -/
def tableBytes (nbits w : Nat) : Bytes :=
  let w := w % 2 ^ nbits
  if nbits ≤ 8 then [natByte w 0, 0, 0, 0, 0, 0]
  else [natByte w 1, natByte w 0, natByte w 3, natByte w 2, natByte w 5, natByte w 4]

/-- The instruction the decoder reads from a number of opcode_table.json. -/
def decodeTableWord (nbits w : Nat) : Option Instr :=
  match decode (tableBytes nbits w) with
  | .ok (i, _) => some i
  | .error _ => none

end Sys2Proof
end

