-- ==== Sys2Proof/Machine/Memory.lean ====
section
/-! DEFINITION. Memory: 2^20 bytes as a list of (address, byte) pairs in one canonical form (20_memory.md R50 to R53). An
address the list does not hold reads as 00H (DESIGN CHOICE, unsafe; log 10). -/

namespace Sys2Proof.Machine

/-- Memory as the listed bytes, addresses rising, no entry equal to what an unlisted address reads as. -/
abbrev Memory := List Host.Cell

/-- What an address reads as that nothing has written (DESIGN CHOICE; log 10). -/
def Memory.unlisted : Byte := 0

/-- The number of byte addresses, 2^`ADDRESS_BITS` (20_memory.md R50). -/
def Memory.size : Nat := 2 ^ Config.addressBits

/-- The byte at physical address `a` (`MemRead(a, 1)`, 00_scope.md R8). -/
def Memory.read (m : Memory) (a : Nat) : Byte :=
  match m with
  | [] => Memory.unlisted
  | (k, v) :: t => if k = a then v else Memory.read t a

/-- The list without address `a`. -/
def Memory.erase (m : Memory) (a : Nat) : Memory :=
  match m with
  | [] => []
  | (k, v) :: t => if k = a then Memory.erase t a else (k, v) :: Memory.erase t a

/-- The list with `(a, v)` put before the first larger address. -/
def Memory.insert (m : Memory) (a : Nat) (v : Byte) : Memory :=
  match m with
  | [] => [(a, v)]
  | (k, w) :: t => if a < k then (a, v) :: (k, w) :: t else (k, w) :: Memory.insert t a v

/-- Store the byte `v` at physical address `a` (`MemWrite(a, 1, v)`, 00_scope.md R8). -/
def Memory.write (m : Memory) (a : Nat) (v : Byte) : Memory :=
  if v = Memory.unlisted then Memory.erase m a else Memory.insert (Memory.erase m a) a v

/-- Every address is at least `lo`, addresses rise strictly, are below the size, and no value is the unlisted one. -/
def Memory.wfFrom (lo : Nat) (m : Memory) : Bool :=
  match m with
  | [] => true
  | (k, v) :: t => decide (lo ≤ k) && decide (k < Memory.size) && decide (v ≠ Memory.unlisted) && Memory.wfFrom (k + 1) t

/-- The canonical form. -/
def Memory.wf (m : Memory) : Bool := Memory.wfFrom 0 m

/-- The physical address of offset `o` in the segment whose register holds `base`: `(base x 16 + o) mod 2^20`
(20_memory.md R51). -/
def phys (base o : Word) : Nat := (base.toNat * 16 + o.toNat) % Memory.size

/-- The physical address of the high byte of the word at offset `o`: offset `o + 1`, except at offset FFFFH, where it is as
`WORD_AT_FFFF` says (20_memory.md R53; log 4). -/
def physHigh (base o : Word) : Nat :=
  if o = 0xFFFF then
    match Config.wordAtFFFF with
    | .wrapOffset => phys base 0
    | .linear => (phys base o + 1) % Memory.size
  else phys base (o + 1)

/-- `Mem16`: the word with low byte at `o` (20_memory.md R52, R53). -/
def Memory.read16 (m : Memory) (base o : Word) : Word :=
  Byte.pair (m.read (physHigh base o)) (m.read (phys base o))

/-- Store a word, low byte at `o` (20_memory.md R52, R53). -/
def Memory.write16 (m : Memory) (base o v : Word) : Memory :=
  (m.write (phys base o) v.lo).write (physHigh base o) v.hi

/-- `MemRead(a, 2)` at an absolute address (00_scope.md R8, 60_exceptions.md R341). -/
def Memory.readAbs16 (m : Memory) (a : Nat) : Word :=
  Byte.pair (m.read ((a + 1) % Memory.size)) (m.read (a % Memory.size))

end Sys2Proof.Machine
end

