-- ==== Sys2Proof/Machine/State.lean ====
section
/-! DEFINITION. The state of the machine as plain data (10_state.md), the reasons it can stop, and the state after reset. -/

namespace Sys2Proof.Machine

/-- The eight 16-bit general registers (10_state.md R20). -/
structure Regs where
  ax : Word := 0
  cx : Word := 0
  dx : Word := 0
  bx : Word := 0
  sp : Word := 0
  bp : Word := 0
  si : Word := 0
  di : Word := 0
deriving DecidableEq, Repr

/-- The four segment registers (10_state.md R23). -/
structure Segs where
  es : Word := 0
  cs : Word := 0
  ss : Word := 0
  ds : Word := 0
deriving DecidableEq, Repr

/-- The nine flags of the FLAGS word (10_state.md R25, R27). The word's other bits hold nothing. -/
structure Flags where
  AF : Bool := false
  CF : Bool := false
  DF : Bool := false
  IF : Bool := false
  OF : Bool := false
  PF : Bool := false
  SF : Bool := false
  TF : Bool := false
  ZF : Bool := false
deriving DecidableEq, Repr

/-- The prefixes in force for the instruction in progress (10_state.md R32). -/
structure Prefixes where
  /-- a prefix byte of the instruction in progress has been executed -/
  active : Bool := false
  /-- segment override -/
  seg : Option SegReg := none
  /-- repeat prefix, with the `z` of 44_string.md R290: true for REP/REPE/REPZ, false for REPNE/REPNZ -/
  rep : Option Bool := none
  /-- the bus LOCK signal is asserted -/
  lock : Bool := false
  /-- a repeated string instruction has ended a repetition that is not its last (log 1) -/
  again : Bool := false
deriving DecidableEq, Repr

/-- The environment's lines (10_state.md R32, 43_flag_processor_control.md R263, R264). -/
structure Lines where
  /-- a latched NMI request (60_exceptions.md R351) -/
  nmi : Bool := false
  /-- a maskable request on INTR with the type its controller supplies (60_exceptions.md R350) -/
  intr : Option Byte := none
  /-- the test line is active (43_flag_processor_control.md R264) -/
  test : Bool := true
  /-- RESET has been activated (70_reset_and_hazards.md R380) -/
  reset : Bool := false
deriving DecidableEq, Repr

/-- What the environment sees on the bus besides memory accesses (20_memory.md R62, 43_flag_processor_control.md R262). -/
inductive BusEvent where
  | portRead (port : Word) (w : Width) (value : Word)
  | portWrite (port : Word) (w : Width) (value : Word)
  | /-- an ESC instruction: its external opcode and, for a memory operand, the word read -/
    escape (opcode : BitVec 6) (operand : Option Word)
deriving DecidableEq, Repr

/-- A stretch of physical memory. -/
structure Region where
  base : Nat
  size : Nat
deriving DecidableEq, Repr

/-- The machine. While an instruction executes, `ip` is `next_ip` and `thisIp` is `this_ip` (00_scope.md R15). -/
structure State where
  regs : Regs
  segs : Segs
  /-- the instruction pointer (10_state.md R24) -/
  ip : Word
  /-- `this_ip`: offset of the first byte, prefixes included, of the instruction in progress (00_scope.md R15) -/
  thisIp : Word
  flags : Flags
  /-- the halt state (10_state.md R32) -/
  halted : Bool
  /-- the wait state (10_state.md R32) -/
  waiting : Bool
  /-- `sti_shadow` (10_state.md R32) -/
  stiShadow : Bool
  /-- `seg_inhibit` (10_state.md R32) -/
  segInhibit : Bool
  /-- `trap_armed` (10_state.md R32) -/
  trapArmed : Bool
  /-- prefixes in force (10_state.md R32) -/
  pre : Prefixes
  /-- the environment's lines -/
  lines : Lines
  /-- port and ESC events, newest first -/
  bus : List BusEvent
  /-- the prefetch queue: bytes from `this_ip` on that may already have been fetched, with the value they had then
  (20_memory.md R72; log 22) -/
  queue : List Host.Cell
  /-- program text, the parameter of 20_memory.md R72: where the instructions of the loaded program lie, all that may still
  execute; no step changes it (log 22) -/
  text : List Region
  /-- the physical addresses of the bytes executed in this run: program text too, whether or not `text` names them (20_memory.md
  R72; log 22) -/
  executed : List Nat
  /-- the physical addresses stored to in this run, newest first (20_memory.md R72; log 22) -/
  stored : List Nat
  /-- the model's own: how many free values have been taken (log 11) -/
  draws : Nat
  /-- memory (20_memory.md R50) -/
  mem : Memory
deriving DecidableEq, Repr

/-- Reasons a step stops the machine with a fault: none. Every exception of the machine is an interrupt sequence after which
execution goes on (60_exceptions.md R340), and no access can fault (20_memory.md R64). -/
inductive Fault where
deriving DecidableEq, Repr

/-- Reasons a step gives no meaning. -/
inductive Refusal where
  /-- An arm of `exec` that has no meaning yet. No arm is left so. Safe. -/
  | notModelled (mnemonic : String)
  /-- Raised by `step` on bytes that are no instruction, when `UNDEFINED_OPCODE_ACTION` is `refuse` (30_encoding.md R91), and
  on an AAM or AAD whose second byte is not 0AH (R99). Safe. -/
  | undefinedEncoding (e : DecodeError)
  /-- Raised by `step` when a byte of the instruction, or of what makes an encoding undefined (log 19), was stored to in this
  run: the store was into an instruction that was still to execute (20_memory.md R72; log 22). Safe. -/
  | staleInstructionByte
  /-- Raised by `step` when it would store into a byte of program text, so into an instruction that may still execute
  (20_memory.md R72; log 22). Safe. -/
  | storeIntoProgramText
  /-- Raised by `step` for a repeat prefix before an instruction that is no string instruction (30_encoding.md R94). Safe. -/
  | repeatBeforeNonString
  /-- Raised by `step` for LOCK before an instruction that has no memory destination (30_encoding.md R94). Safe. -/
  | lockWithoutMemoryDestination
  /-- Raised by the meanings of MOV and POP for the destination CS, which no encoding gives (45_data_transfer.md R308, R310).
  Safe. -/
  | codeSegmentDestination
deriving DecidableEq, Repr

/-- The machine right after reset (10_state.md R33, 70_reset_and_hazards.md R380). CS, IP, DS, ES, SS and the flags are the
values those rules show for `RESET_STATE` (log 8); the general registers, which they leave unspecified, are 0 (DESIGN CHOICE,
unsafe; log 9); memory lists nothing (log 10); the test line is active (log 25); no program is loaded, so there is no program text
(DESIGN CHOICE; log 22). -/
def State.reset : State where
  regs := {}
  segs := { es := 0, cs := 0xFFFF, ss := 0, ds := 0 }
  ip := 0
  thisIp := 0
  flags := {}
  halted := false
  waiting := false
  stiShadow := false
  segInhibit := false
  trapArmed := false
  pre := {}
  lines := {}
  bus := []
  queue := []
  text := []
  executed := []
  stored := []
  draws := 0
  mem := []

end Sys2Proof.Machine
end

