-- ==== Sys2Proof/Machine/Ops.lean ====
section
/-! DEFINITION. The named operations over registers, memory, the stack, the ports and the free values, and the interrupt
sequence with its return. Every meaning is written over these. -/

namespace Sys2Proof.Machine

/-- What a meaning answers. -/
abbrev Result := Host.Outcome State Fault Refusal

/-! ### General registers (10_state.md R20, R21) -/

def Regs.get (g : Regs) : Reg16 → Word
  | .ax => g.ax | .cx => g.cx | .dx => g.dx | .bx => g.bx | .sp => g.sp | .bp => g.bp | .si => g.si | .di => g.di

def Regs.set (g : Regs) (r : Reg16) (v : Word) : Regs :=
  match r with
  | .ax => { g with ax := v }
  | .cx => { g with cx := v }
  | .dx => { g with dx := v }
  | .bx => { g with bx := v }
  | .sp => { g with sp := v }
  | .bp => { g with bp := v }
  | .si => { g with si := v }
  | .di => { g with di := v }

def State.reg (s : State) (r : Reg16) : Word := s.regs.get r

def State.setReg (s : State) (r : Reg16) (v : Word) : State := { s with regs := s.regs.set r v }

/-- The 16-bit register an 8-bit register is half of (10_state.md R21). -/
def Reg8.parent : Reg8 → Reg16
  | .al | .ah => .ax
  | .cl | .ch => .cx
  | .dl | .dh => .dx
  | .bl | .bh => .bx

/-- Whether an 8-bit register is the high byte of its parent. -/
def Reg8.isHigh : Reg8 → Bool
  | .al | .cl | .dl | .bl => false
  | .ah | .ch | .dh | .bh => true

def State.reg8 (s : State) (r : Reg8) : Byte :=
  if Reg8.isHigh r then (s.reg (Reg8.parent r)).hi else (s.reg (Reg8.parent r)).lo

/-- Writing a half leaves the other half unchanged (10_state.md R21). -/
def State.setReg8 (s : State) (r : Reg8) (v : Byte) : State :=
  let p := Reg8.parent r
  s.setReg p (if Reg8.isHigh r then Byte.pair v (s.reg p).lo else Byte.pair (s.reg p).hi v)

/-! ### Segment registers and control transfers -/

def Segs.get (g : Segs) : SegReg → Word
  | .es => g.es | .cs => g.cs | .ss => g.ss | .ds => g.ds

def Segs.set (g : Segs) (r : SegReg) (v : Word) : Segs :=
  match r with
  | .es => { g with es := v }
  | .cs => { g with cs := v }
  | .ss => { g with ss := v }
  | .ds => { g with ds := v }

def State.seg (s : State) (r : SegReg) : Word := s.segs.get r

def State.setSeg (s : State) (r : SegReg) (v : Word) : State := { s with segs := s.segs.set r v }

def State.setFlags (s : State) (f : Flags) : State := { s with flags := f }

/-- Transfer control inside the segment; any transfer empties the prefetch queue (20_memory.md R72). -/
def State.jump (s : State) (target : Word) : State := { s with ip := target, queue := [] }

/-- Transfer control to another segment (42_control_transfer.md R190). -/
def State.jumpFar (s : State) (segment offset : Word) : State := (s.setSeg .cs segment).jump offset

/-! ### Memory through a segment register (20_memory.md R51 to R53) -/

/-- `Mem8(S, o)`. -/
def State.read8 (s : State) (r : SegReg) (o : Word) : Byte := s.mem.read (phys (s.seg r) o)

/-- `Mem16(S, o)`. -/
def State.read16 (s : State) (r : SegReg) (o : Word) : Word := s.mem.read16 (s.seg r) o

/-- A record of addresses with `a` in it, each once (log 22). -/
def recorded (l : List Nat) (a : Nat) : List Nat := if l.contains a then l else a :: l

/-- `Mem8(S, o) <- v`; the store is recorded (20_memory.md R72; log 22). -/
def State.write8 (s : State) (r : SegReg) (o : Word) (v : Byte) : State :=
  { s with mem := s.mem.write (phys (s.seg r) o) v, stored := recorded s.stored (phys (s.seg r) o) }

/-- `Mem16(S, o) <- v`; the two stored bytes are recorded (20_memory.md R72; log 22). -/
def State.write16 (s : State) (r : SegReg) (o v : Word) : State :=
  { s with
    mem := s.mem.write16 (s.seg r) o v
    stored := recorded (recorded s.stored (phys (s.seg r) o)) (physHigh (s.seg r) o) }

/-! ### The stack (10_state.md R26, 00_scope.md R8) -/

/-- `push16(v)`: SP is lowered by 2, then the word stored at SS:SP. -/
def State.push16 (s : State) (v : Word) : State := (s.setReg .sp (s.regs.sp - 2)).write16 .ss (s.regs.sp - 2) v

/-- The word `pop16()` returns. -/
def State.top (s : State) : Word := s.read16 .ss s.regs.sp

/-- SP after `pop16()`: raised by 2. -/
def State.dropTop (s : State) : State := s.setReg .sp (s.regs.sp + 2)

/-! ### The FLAGS word (10_state.md R25) -/

/-- A flag at its bit position. -/
def flagAt (b : Bool) (n : Nat) : Word := if b then BitVec.twoPow 16 n else 0

/-- The 16-bit image that PUSHF and the interrupt sequence store: the nine flags at their positions, bits 15-12, 5, 3 and 1
as `FLAGS_RESERVED` has them (10_state.md R25, 45_data_transfer.md R317; log 7). -/
def Flags.toWord (f : Flags) : Word :=
  flagAt f.CF 0 ||| flagAt f.PF 2 ||| flagAt f.AF 4 ||| flagAt f.ZF 6 ||| flagAt f.SF 7 ||| flagAt f.TF 8 |||
    flagAt f.IF 9 ||| flagAt f.DF 10 ||| flagAt f.OF 11 ||| (Config.flagsReserved &&& 0xF02A)

/-- The nine flags a word loads; its other bits are dropped (45_data_transfer.md R312). -/
def Flags.ofWord (w : Word) : Flags where
  CF := w.getLsbD 0
  PF := w.getLsbD 2
  AF := w.getLsbD 4
  ZF := w.getLsbD 6
  SF := w.getLsbD 7
  TF := w.getLsbD 8
  IF := w.getLsbD 9
  DF := w.getLsbD 10
  OF := w.getLsbD 11

/-! ### Free values (00_scope.md R8, R10; log 11) -/

/-- The `k`-th of the next free values: `undefined_16`. -/
def State.free (s : State) (k : Nat := 0) : Word := Config.freeWord (s.draws + k)

/-- One bit of the next free value: `undefined_1`; different bits are independent draws. -/
def State.freeBit (s : State) (bit : Nat) : Bool := s.free.getLsbD bit

/-- The state after `k` free values have been taken. -/
def State.drawn (s : State) (k : Nat) : State := { s with draws := s.draws + k }

/-! ### The I/O space (20_memory.md R62; log 29) -/

/-- The value `PortRead(p, 1)` returns now. -/
def State.portIn8 (s : State) (p : Word) : Byte := Config.portInput8 s.draws p

/-- The value `PortRead(p, 2)` returns now. -/
def State.portIn16 (s : State) (p : Word) : Word := Config.portInput16 s.draws p

/-- The state after a port read of value `v`. -/
def State.afterPortRead (s : State) (p : Word) (w : Width) (v : Word) : State :=
  { s with bus := .portRead p w v :: s.bus, draws := s.draws + 1 }

/-- `PortWrite`. -/
def State.portOut (s : State) (p : Word) (w : Width) (v : Word) : State := { s with bus := .portWrite p w v :: s.bus }

/-! ### Taking an interrupt and returning from one -/

/-- The FLAGS part of the interrupt sequence: the word is pushed with the old IF and TF, then both are cleared
(60_exceptions.md R340). -/
def State.saveFlags (s : State) : State :=
  (s.push16 s.flags.toWord).setFlags { s.flags with IF := false, TF := false }

/-- The interrupt sequence `Interrupt(t)` with saved offset `ret`, statement by statement (60_exceptions.md R340,
20_memory.md R75): FLAGS, CS and `ret` are pushed on SS:SP, IF and TF cleared, CS:IP loaded from the pointer at absolute 4t,
the halt and wait states left, the prefetch queue emptied. -/
def State.interrupt (s : State) (t : Byte) (ret : Word) : State :=
  let s1 := s.saveFlags
  let s2 := s1.push16 s1.segs.cs
  let s3 := s2.setSeg .cs (s2.mem.readAbs16 (4 * t.toNat + 2))
  let s4 := s3.push16 ret
  { s4.jump (s4.mem.readAbs16 (4 * t.toNat)) with halted := false, waiting := false }

/-- Return from an interrupt: IP, CS and the flags are popped in that order (42_control_transfer.md R199). -/
def State.interruptReturn (s : State) : State :=
  let s1 := s.dropTop
  let s2 := s1.dropTop
  ((s2.dropTop).setFlags (Flags.ofWord s2.top)).jumpFar s1.top s.top

/-- The offset a divide error or BOUND saves: `FAULT_RETURN_IP` (60_exceptions.md R344, R345; log 14). -/
def State.faultReturnIp (s : State) : Word := if Config.faultReturnIsFaulting then s.thisIp else s.ip

/-- `f` applied `n` times. -/
def repeatTimes {α : Type} (n : Nat) (f : α → α) (x : α) : α :=
  match n with
  | 0 => x
  | k + 1 => repeatTimes k f (f x)

end Sys2Proof.Machine
end

