-- ==== Sys2Proof/Machine/Flags.lean ====
section
/-! DEFINITION. Every result and flag computation of the spec, on bit vectors of any width N (the machine uses 8 and 16):
00_scope.md R11 and the loops of 41_logic_shift.md R166 to R173. -/

namespace Sys2Proof.Machine

/-- `parity8`: 1 if the byte holds an even number of 1 bits (00_scope.md R11). -/
def parity8 (b : Byte) : Bool :=
  !(b.getLsbD 0 ^^ b.getLsbD 1 ^^ b.getLsbD 2 ^^ b.getLsbD 3 ^^ b.getLsbD 4 ^^ b.getLsbD 5 ^^ b.getLsbD 6 ^^ b.getLsbD 7)

/-- `set_szp_N` (00_scope.md R11). -/
def Flags.szp {w : Nat} (f : Flags) (r : BitVec w) : Flags :=
  { f with SF := r.msb, ZF := r == 0, PF := parity8 (r.setWidth 8) }

/-- Whether an exact value lies in `-2^(N-1) .. 2^(N-1)-1` (00_scope.md R11). -/
def fitsSigned (w : Nat) (x : Int) : Bool := decide (-((2 ^ (w - 1) : Nat) : Int) ≤ x ∧ x < ((2 ^ (w - 1) : Nat) : Int))

/-! ### Addition and subtraction (00_scope.md R11) -/

/-- The result of `add_N`. -/
def addResult {w : Nat} (a b : BitVec w) (c : Bool) : BitVec w := BitVec.ofNat w (a.toNat + b.toNat + bitNat c)

/-- The flags of `add_N`. -/
def addFlags {w : Nat} (f : Flags) (a b : BitVec w) (c : Bool) : Flags :=
  { f.szp (addResult a b c) with
    CF := decide (2 ^ w ≤ a.toNat + b.toNat + bitNat c)
    AF := decide (16 ≤ a.toNat % 16 + b.toNat % 16 + bitNat c)
    OF := !fitsSigned w (a.toInt + b.toInt + bitNat c) }

/-- The result of `sub_N`: `a - b - c`. -/
def subResult {w : Nat} (a b : BitVec w) (c : Bool) : BitVec w := a - b - BitVec.ofNat w (bitNat c)

/-- The flags of `sub_N`. -/
def subFlags {w : Nat} (f : Flags) (a b : BitVec w) (c : Bool) : Flags :=
  { f.szp (subResult a b c) with
    CF := decide (a.toNat < b.toNat + bitNat c)
    AF := decide (a.toNat % 16 < b.toNat % 16 + bitNat c)
    OF := !fitsSigned w (a.toInt - b.toInt - bitNat c) }

/-- `logic_N`: CF and OF cleared, AF the free bit `u`, the rest from the result (00_scope.md R11). -/
def logicFlags {w : Nat} (f : Flags) (r : BitVec w) (u : Bool) : Flags := { f.szp r with CF := false, OF := false, AF := u }

/-! ### Multiplication and division -/

/-- MUL and IMUL: CF and OF tell whether the upper half matters; AF, PF, SF, ZF are free (40_arithmetic.md R135, R138). -/
def mulFlags (f : Flags) (upper : Bool) (u : Word) : Flags :=
  { f with CF := upper, OF := upper, AF := u.getLsbD 4, PF := u.getLsbD 2, SF := u.getLsbD 7, ZF := u.getLsbD 6 }

/-- DIV and IDIV: all six status flags are free (40_arithmetic.md R133, R134). -/
def divFlags (f : Flags) (u : Word) : Flags :=
  { f with CF := u.getLsbD 0, OF := u.getLsbD 11, AF := u.getLsbD 4, PF := u.getLsbD 2, SF := u.getLsbD 7, ZF := u.getLsbD 6 }

/-! ### Shifts and rotates: one turn of each loop on the operand and CF (41_logic_shift.md R167 to R173) -/

/-- The bit vector with only bit 0 as `c`. -/
def lowBit (w : Nat) (c : Bool) : BitVec w := if c then 1 else 0

/-- The bit vector with only bit N-1 as `c`. -/
def highBit (w : Nat) (c : Bool) : BitVec w := if c then BitVec.twoPow w (w - 1) else 0

/-- An operand and CF. -/
abbrev Turn (w : Nat) := BitVec w × Bool

def rclTurn (w : Nat) (x : Turn w) : Turn w := ((x.1 <<< 1) ||| lowBit w x.2, x.1.msb)

def rcrTurn (w : Nat) (x : Turn w) : Turn w := ((x.1 >>> 1) ||| highBit w x.2, x.1.getLsbD 0)

def rolTurn (w : Nat) (x : Turn w) : Turn w := ((x.1 <<< 1) ||| lowBit w x.1.msb, x.1.msb)

def rorTurn (w : Nat) (x : Turn w) : Turn w := ((x.1 >>> 1) ||| highBit w (x.1.getLsbD 0), x.1.getLsbD 0)

def shlTurn (w : Nat) (x : Turn w) : Turn w := (x.1 <<< 1, x.1.msb)

def sarTurn (w : Nat) (x : Turn w) : Turn w := ((x.1 >>> 1) ||| highBit w x.1.msb, x.1.getLsbD 0)

def shrTurn (w : Nat) (x : Turn w) : Turn w := (x.1 >>> 1, x.1.getLsbD 0)

/-- OF after a left shift or rotate by one: the new high-order bit differs from CF (R167, R169, R171). -/
def ofLeft {w : Nat} (x : Turn w) : Bool := x.1.msb != x.2

/-- OF after a right shift or rotate by one: the two high-order bits differ (R168, R170, R173). -/
def ofRight {w : Nat} (x : Turn w) : Bool := x.1.msb != x.1.getLsbD (w - 2)

/-- The flags of a rotate by `n`: CF from the loop; OF by `ofRule` for a count of 1, else free (R166 to R170). -/
def rotateFlags {w : Nat} (f : Flags) (n : Nat) (x : Turn w) (ofRule : Turn w → Bool) (u : Word) : Flags :=
  { f with CF := x.2, OF := if n = 1 then ofRule x else u.getLsbD 11 }

/-- The flags of a shift by `n`: CF from the loop; SF, ZF, PF from the result; AF free; OF the value `ofValue`. With a count
of 0, CF stays and every other flag the entry marks is free (R166; log 13). -/
def shiftFlags {w : Nat} (f : Flags) (n : Nat) (x : Turn w) (ofValue : Bool) (u : Word) : Flags :=
  if n = 0 then
    { f with CF := x.2, OF := u.getLsbD 11, AF := u.getLsbD 4, SF := u.getLsbD 7, ZF := u.getLsbD 6, PF := u.getLsbD 2 }
  else { f.szp x.1 with CF := x.2, OF := ofValue, AF := u.getLsbD 4 }

/-- A count or level of which the hardware may use only the low five bits: equal readings up to 31, above that as the
parameter `masked` says (41_logic_shift.md R166, 45_data_transfer.md R300; logs 12, 16). -/
def effectiveCount (masked : Bool) (n : Byte) : Nat :=
  if n.toNat ≤ 31 then n.toNat else if masked then n.toNat % 32 else n.toNat

end Sys2Proof.Machine
end

