-- ==== Sys2Proof/Machine/Operands.lean ====
section
/-! DEFINITION. Operands: effective address and segment (20_memory.md R55, R56), reading and writing a register-or-memory
operand, and running a two-operand, one-operand or shift form over an operation. -/

namespace Sys2Proof.Machine

/-! ### Effective addresses -/

/-- The sum of base and index registers (30_encoding.md R85). -/
def Base.sum (g : Regs) : Base → Word
  | .bxSi => g.bx + g.si
  | .bxDi => g.bx + g.di
  | .bpSi => g.bp + g.si
  | .bpDi => g.bp + g.di
  | .si => g.si
  | .di => g.di
  | .bp => g.bp
  | .bx => g.bx

/-- A displacement as 16 bits; a byte is sign-extended (20_memory.md R55). -/
def Disp.value : Disp → Word
  | .none => 0
  | .d8 d => d.signExtend 16
  | .d16 d => d

/-- `ea(rm)`, the 16-bit sum modulo 2^16 (20_memory.md R55). -/
def State.ea (s : State) : MemOp → Word
  | .direct o => o
  | .indexed b d => Base.sum s.regs b + Disp.value d

/-- SS when the effective address uses BP, else DS (20_memory.md R56). -/
def MemOp.defaultSeg : MemOp → SegReg
  | .indexed .bpSi _ | .indexed .bpDi _ | .indexed .bp _ => .ss
  | _ => .ds

/-- The segment register of an overridable access: the override if one is in force (43_flag_processor_control.md R261). -/
def State.segFor (s : State) (default : SegReg) : SegReg := s.pre.seg.getD default

/-- `seg(rm)` (20_memory.md R56). -/
def State.segOf (s : State) (m : MemOp) : SegReg := s.segFor (MemOp.defaultSeg m)

/-! ### Memory and register-or-memory operands (00_scope.md R8) -/

def State.readMem8 (s : State) (m : MemOp) : Byte := s.read8 (s.segOf m) (s.ea m)

def State.readMem16 (s : State) (m : MemOp) : Word := s.read16 (s.segOf m) (s.ea m)

/-- The second word of a doubleword operand, at `ea + 2` (20_memory.md R54). -/
def State.readMem16Next (s : State) (m : MemOp) : Word := s.read16 (s.segOf m) (s.ea m + 2)

def State.writeMem8 (s : State) (m : MemOp) (v : Byte) : State := s.write8 (s.segOf m) (s.ea m) v

def State.writeMem16 (s : State) (m : MemOp) (v : Word) : State := s.write16 (s.segOf m) (s.ea m) v

/-- `read_8(rm)`. -/
def State.readRM8 (s : State) : RM8 → Byte
  | .reg r => s.reg8 r
  | .mem m => s.readMem8 m

/-- `read_16(rm)`. -/
def State.readRM16 (s : State) : RM16 → Word
  | .reg r => s.reg r
  | .mem m => s.readMem16 m

/-- `write_8(rm, v)`. -/
def State.writeRM8 (s : State) (rm : RM8) (v : Byte) : State :=
  match rm with
  | .reg r => s.setReg8 r v
  | .mem m => s.writeMem8 m v

/-- `write_16(rm, v)`. -/
def State.writeRM16 (s : State) (rm : RM16) (v : Word) : State :=
  match rm with
  | .reg r => s.setReg r v
  | .mem m => s.writeMem16 m v

/-! ### Operations over operands -/

/-- A two-operand operation: its result, and the state with only flags and free values changed. -/
abbrev AluOp := (w : Nat) → BitVec w → BitVec w → State → BitVec w × State

/-- Run the six forms of 40_arithmetic.md R120, writing the result to the destination: operands read, result and flags
computed, destination written once. -/
def runAlu (op : AluOp) (f : AluForm) (s : State) : State :=
  match f with
  | .rmReg8 rm r => let x := op 8 (s.readRM8 rm) (s.reg8 r) s; x.2.writeRM8 rm x.1
  | .rmReg16 rm r => let x := op 16 (s.readRM16 rm) (s.reg r) s; x.2.writeRM16 rm x.1
  | .regRm8 r rm => let x := op 8 (s.reg8 r) (s.readRM8 rm) s; x.2.setReg8 r x.1
  | .regRm16 r rm => let x := op 16 (s.reg r) (s.readRM16 rm) s; x.2.setReg r x.1
  | .al imm => let x := op 8 (s.reg8 .al) imm s; x.2.setReg8 .al x.1
  | .ax imm => let x := op 16 (s.reg .ax) imm s; x.2.setReg .ax x.1
  | .rmImm8 rm imm => let x := op 8 (s.readRM8 rm) imm s; x.2.writeRM8 rm x.1
  | .rmImm16 rm imm => let x := op 16 (s.readRM16 rm) imm s; x.2.writeRM16 rm x.1
  | .rmImm8Alias rm imm => let x := op 8 (s.readRM8 rm) imm s; x.2.writeRM8 rm x.1
  | .rmImmSx rm imm => let x := op 16 (s.readRM16 rm) (imm.signExtend 16) s; x.2.writeRM16 rm x.1

/-- The same forms when the result is discarded: CMP (40_arithmetic.md R128). -/
def runAluFlags (op : AluOp) (f : AluForm) (s : State) : State :=
  match f with
  | .rmReg8 rm r => (op 8 (s.readRM8 rm) (s.reg8 r) s).2
  | .rmReg16 rm r => (op 16 (s.readRM16 rm) (s.reg r) s).2
  | .regRm8 r rm => (op 8 (s.reg8 r) (s.readRM8 rm) s).2
  | .regRm16 r rm => (op 16 (s.reg r) (s.readRM16 rm) s).2
  | .al imm => (op 8 (s.reg8 .al) imm s).2
  | .ax imm => (op 16 (s.reg .ax) imm s).2
  | .rmImm8 rm imm => (op 8 (s.readRM8 rm) imm s).2
  | .rmImm16 rm imm => (op 16 (s.readRM16 rm) imm s).2
  | .rmImm8Alias rm imm => (op 8 (s.readRM8 rm) imm s).2
  | .rmImmSx rm imm => (op 16 (s.readRM16 rm) (imm.signExtend 16) s).2

/-- The forms of TEST, result discarded (41_logic_shift.md R164). -/
def runTest (op : AluOp) (f : TestForm) (s : State) : State :=
  match f with
  | .rmReg8 rm r => (op 8 (s.readRM8 rm) (s.reg8 r) s).2
  | .rmReg16 rm r => (op 16 (s.readRM16 rm) (s.reg r) s).2
  | .al imm => (op 8 (s.reg8 .al) imm s).2
  | .ax imm => (op 16 (s.reg .ax) imm s).2
  | .rmImm8 rm imm => (op 8 (s.readRM8 rm) imm s).2
  | .rmImm16 rm imm => (op 16 (s.readRM16 rm) imm s).2

/-- A one-operand operation: its result, and the state with only flags and free values changed. -/
abbrev UnaryOp := (w : Nat) → BitVec w → State → BitVec w × State

/-- Read, compute, write back: NOT and NEG. -/
def runUnary (op : UnaryOp) (f : UnaryForm) (s : State) : State :=
  match f with
  | .rm8 rm => let x := op 8 (s.readRM8 rm) s; x.2.writeRM8 rm x.1
  | .rm16 rm => let x := op 16 (s.readRM16 rm) s; x.2.writeRM16 rm x.1

/-- Read, compute, write back: INC and DEC. -/
def runInc (op : UnaryOp) (f : IncForm) (s : State) : State :=
  match f with
  | .reg16 r => let x := op 16 (s.reg r) s; x.2.setReg r x.1
  | .rm8 rm => let x := op 8 (s.readRM8 rm) s; x.2.writeRM8 rm x.1
  | .rm16 rm => let x := op 16 (s.readRM16 rm) s; x.2.writeRM16 rm x.1

/-- The number of turns of a shift or rotate (41_logic_shift.md R166; log 12). -/
def State.turns (s : State) : Count → Nat
  | .one => 1
  | .imm n => effectiveCount Config.shiftCountMaskedTo5 n
  | .cl => effectiveCount Config.shiftCountMaskedTo5 (s.reg8 .cl)

/-- A shift or rotate by a number of turns: its result, and the state with only flags and free values changed. -/
abbrev ShiftOp := (w : Nat) → Nat → BitVec w → State → BitVec w × State

/-- Read the destination once, shift, write it once (41_logic_shift.md R166). -/
def runShift (op : ShiftOp) (f : ShiftForm) (s : State) : State :=
  match f with
  | .rm8 rm c => let x := op 8 (s.turns c) (s.readRM8 rm) s; x.2.writeRM8 rm x.1
  | .rm16 rm c => let x := op 16 (s.turns c) (s.readRM16 rm) s; x.2.writeRM16 rm x.1

end Sys2Proof.Machine
end

