-- ==== Sys2Proof/Machine/Arithmetic.lean ====
section
/-! DEFINITION. The arithmetic instructions, 40_arithmetic.md R121 to R141. -/

namespace Sys2Proof.Machine

/-! ### Addition and subtraction -/

/-- `add_N(a, b, 0)` (00_scope.md R11). -/
def aluAdd : AluOp := fun _ a b s => (addResult a b false, s.setFlags (addFlags s.flags a b false))

/-- `add_N(a, b, CF)`. -/
def aluAdc : AluOp := fun _ a b s => (addResult a b s.flags.CF, s.setFlags (addFlags s.flags a b s.flags.CF))

/-- `sub_N(a, b, 0)` (00_scope.md R11). -/
def aluSub : AluOp := fun _ a b s => (subResult a b false, s.setFlags (subFlags s.flags a b false))

/-- `sub_N(a, b, CF)`. -/
def aluSbb : AluOp := fun _ a b s => (subResult a b s.flags.CF, s.setFlags (subFlags s.flags a b s.flags.CF))

/-- `add_N(a, 1, 0)` with CF kept (R137). -/
def unaryInc : UnaryOp := fun _ a s => (addResult a 1 false, s.setFlags { addFlags s.flags a 1 false with CF := s.flags.CF })

/-- `sub_N(a, 1, 0)` with CF kept (R132). -/
def unaryDec : UnaryOp := fun _ a s => (subResult a 1 false, s.setFlags { subFlags s.flags a 1 false with CF := s.flags.CF })

/-- `sub_N(0, a, 0)` (R139). -/
def unaryNeg : UnaryOp := fun _ a s => (subResult 0 a false, s.setFlags (subFlags s.flags 0 a false))

/-- R125. -/
def execAdc (f : AluForm) (s : State) : Result := .next (runAlu aluAdc f s)

/-- R126. -/
def execAdd (f : AluForm) (s : State) : Result := .next (runAlu aluAdd f s)

/-- R128: flags only. -/
def execCmp (f : AluForm) (s : State) : Result := .next (runAluFlags aluSub f s)

/-- R132. -/
def execDec (f : IncForm) (s : State) : Result := .next (runInc unaryDec f s)

/-- R137. -/
def execInc (f : IncForm) (s : State) : Result := .next (runInc unaryInc f s)

/-- R139. -/
def execNeg (f : UnaryForm) (s : State) : Result := .next (runUnary unaryNeg f s)

/-- R140. -/
def execSbb (f : AluForm) (s : State) : Result := .next (runAlu aluSbb f s)

/-- R141. -/
def execSub (f : AluForm) (s : State) : Result := .next (runAlu aluSub f s)

/-! ### Decimal and ASCII adjustment -/

/-- `(AL and 0FH) > 9 or AF = 1`, the test of AAA, AAS, DAA and DAS. -/
def adjustLow (al : Byte) (af : Bool) : Bool := decide (9 < al.toNat % 16) || af

/-- The flags of AAA and AAS: AF and CF as the adjustment was taken; OF, PF, SF, ZF free (R121, R124). -/
def asciiFlags (f : Flags) (adjusted : Bool) (u : Word) : Flags :=
  { f with AF := adjusted, CF := adjusted, OF := u.getLsbD 11, PF := u.getLsbD 2, SF := u.getLsbD 7, ZF := u.getLsbD 6 }

/-- AAA and AAS with `d` = 6 or -6 and `e` = 1 or -1: AL and AH are adjusted separately (R121, R124; 90_conflicts.md C20). -/
def asciiAdjust (d e : Byte) (s : State) : State :=
  let adjust := adjustLow (s.reg8 .al) s.flags.AF
  let al := if adjust then s.reg8 .al + d else s.reg8 .al
  let ah := if adjust then s.reg8 .ah + e else s.reg8 .ah
  (((s.setReg .ax (Byte.pair ah (al &&& 0x0F))).setFlags (asciiFlags s.flags adjust s.free))).drawn 1

/-- R121. -/
def execAaa (s : State) : Result := .next (asciiAdjust 6 1 s)

/-- R124. -/
def execAas (s : State) : Result := .next (asciiAdjust (-6) (-1) s)

/-- The flags of AAD and AAM: SF, ZF, PF from the new AL; AF, CF, OF free (R122, R123; log 32). -/
def decimalFlags (f : Flags) (al : Byte) (u : Word) : Flags :=
  { f.szp al with AF := u.getLsbD 4, CF := u.getLsbD 0, OF := u.getLsbD 11 }

/-- R122. -/
def execAad (s : State) : Result :=
  let al : Byte := BitVec.ofNat 8 ((s.reg8 .ah).toNat * Config.decimalBase.toNat + (s.reg8 .al).toNat)
  .next (((s.setReg .ax (Byte.pair 0 al)).setFlags (decimalFlags s.flags al s.free)).drawn 1)

/-- R123. -/
def execAam (s : State) : Result :=
  let t := (s.reg8 .al).toNat
  let al : Byte := BitVec.ofNat 8 (t % Config.decimalBase.toNat)
  let ah : Byte := BitVec.ofNat 8 (t / Config.decimalBase.toNat)
  .next (((s.setReg .ax (Byte.pair ah al)).setFlags (decimalFlags s.flags al s.free)).drawn 1)

/-- R130. The carry out of `AL + 6` sets CF before the second test (90_conflicts.md C23). -/
def execDaa (s : State) : Result :=
  let al := s.reg8 .al
  let low := adjustLow al s.flags.AF
  let cf := s.flags.CF || (low && decide (255 < al.toNat + 6))
  let al := if low then al + 6 else al
  let high := decide (0x9F < al.toNat) || cf
  let al := if high then al + 0x60 else al
  .next (((s.setReg8 .al al).setFlags { s.flags.szp al with AF := low, CF := high, OF := s.freeBit 11 }).drawn 1)

/-- The 24 entry states of DAS whose outcome is free (R131, 92_eei_decisions.md D39). -/
def dasIsFree (al : Byte) (af cf : Bool) : Bool :=
  !cf && ((decide (al.toNat ≤ 0x05) && af) || decide (0x9A ≤ al.toNat ∧ al.toNat ≤ 0x9F) ||
    (decide (0xA0 ≤ al.toNat ∧ al.toNat ≤ 0xA5) && af))

/-- R131. On the 24 states of D39, AL, CF, PF, SF and ZF are free and AF is 1 (log 33). -/
def execDas (s : State) : Result :=
  let al := s.reg8 .al
  if dasIsFree al s.flags.AF s.flags.CF then
    let u := s.free 0
    .next (((s.setReg8 .al (s.free 1).lo).setFlags
      { s.flags with
        AF := true, CF := u.getLsbD 0, PF := u.getLsbD 2, SF := u.getLsbD 7, ZF := u.getLsbD 6, OF := u.getLsbD 11 }).drawn 2)
  else
    let low := adjustLow al s.flags.AF
    let al := if low then al - 6 else al
    let high := decide (0x9F < al.toNat) || s.flags.CF
    let al := if high then al - 0x60 else al
    .next (((s.setReg8 .al al).setFlags { s.flags.szp al with AF := low, CF := high, OF := s.freeBit 11 }).drawn 1)

/-! ### Sign extension -/

/-- R127. -/
def execCbw (s : State) : Result := .next (s.setReg .ax ((s.reg8 .al).signExtend 16))

/-- R129. -/
def execCwd (s : State) : Result := .next (s.setReg .dx (if s.regs.ax.msb then 0xFFFF else 0))

/-! ### Multiplication -/

/-- Write a double-length word result: DX the high word, AX the low one (00_scope.md R17). -/
def State.setDxAx (s : State) (v : BitVec 32) : State :=
  (s.setReg .ax (v.extractLsb' 0 16)).setReg .dx (v.extractLsb' 16 16)

/-- `DX:AX`. -/
def State.dxAx (s : State) : BitVec 32 := s.regs.dx ++ s.regs.ax

/-- R138: CF and OF tell whether the upper half is non-zero. -/
def execMul (f : UnaryForm) (s : State) : Result :=
  match f with
  | .rm8 rm =>
    let p : Word := BitVec.ofNat 16 ((s.reg8 .al).toNat * (s.readRM8 rm).toNat)
    .next (((s.setReg .ax p).setFlags (mulFlags s.flags (p.hi != 0) s.free)).drawn 1)
  | .rm16 rm =>
    let p : BitVec 32 := BitVec.ofNat 32 (s.regs.ax.toNat * (s.readRM16 rm).toNat)
    .next (((s.setDxAx p).setFlags (mulFlags s.flags (p.extractLsb' 16 16 != 0) s.free)).drawn 1)

/-- R135: CF and OF tell whether the upper half is not the sign extension of the lower half. -/
def execImul (f : UnaryForm) (s : State) : Result :=
  match f with
  | .rm8 rm =>
    let p : Word := BitVec.ofInt 16 ((s.readRM8 rm).toInt * (s.reg8 .al).toInt)
    .next (((s.setReg .ax p).setFlags (mulFlags s.flags (p != p.lo.signExtend 16) s.free)).drawn 1)
  | .rm16 rm =>
    let p : BitVec 32 := BitVec.ofInt 32 ((s.readRM16 rm).toInt * s.regs.ax.toInt)
    .next (((s.setDxAx p).setFlags (mulFlags s.flags (p != (p.extractLsb' 0 16).signExtend 32) s.free)).drawn 1)

/-- R136: the 16-bit product of a word operand and an immediate; CF and OF tell whether it does not fit. -/
def imulImmediate (r : Reg16) (rm : RM16) (imm : Word) (s : State) : State :=
  let p := (s.readRM16 rm).toInt * imm.toInt
  ((s.setReg r (BitVec.ofInt 16 p)).setFlags (mulFlags s.flags (!fitsSigned 16 p) s.free)).drawn 1

/-- R136, 69H. -/
def execImulImm16 (r : Reg16) (rm : RM16) (imm : Word) (s : State) : Result := .next (imulImmediate r rm imm s)

/-- R136, 6BH: the byte is sign-extended (30_encoding.md R93). -/
def execImulImm8 (r : Reg16) (rm : RM16) (imm : Byte) (s : State) : Result :=
  .next (imulImmediate r rm (imm.signExtend 16) s)

/-! ### Division -/

/-- A divide error of the byte form: AL, AH and the six status flags are free, then interrupt type 0 (R133, R134,
60_exceptions.md R344). -/
def divideError8 (s : State) : State :=
  (((s.setReg .ax (s.free 1)).setFlags (divFlags s.flags (s.free 0))).drawn 2).interrupt 0 s.faultReturnIp

/-- A divide error of the word form: AX, DX and the six status flags are free, then interrupt type 0. -/
def divideError16 (s : State) : State :=
  ((((s.setReg .ax (s.free 1)).setReg .dx (s.free 2)).setFlags (divFlags s.flags (s.free 0))).drawn 3).interrupt 0
    s.faultReturnIp

/-- The end of a byte division: AL the quotient, AH the remainder, the status flags free. -/
def divided8 (q r : Byte) (s : State) : State :=
  ((s.setReg .ax (Byte.pair r q)).setFlags (divFlags s.flags (s.free 0))).drawn 1

/-- The end of a word division: AX the quotient, DX the remainder, the status flags free. -/
def divided16 (q r : Word) (s : State) : State :=
  (((s.setReg .ax q).setReg .dx r).setFlags (divFlags s.flags (s.free 0))).drawn 1

/-- R133, unsigned division. -/
def execDiv (f : UnaryForm) (s : State) : Result :=
  match f with
  | .rm8 rm =>
    let d := (s.readRM8 rm).toNat
    let n := s.regs.ax.toNat
    .next (if d = 0 ∨ 0xFF < n / d then divideError8 s
      else divided8 (BitVec.ofNat 8 (n / d)) (BitVec.ofNat 8 (n % d)) s)
  | .rm16 rm =>
    let d := (s.readRM16 rm).toNat
    let n := s.dxAx.toNat
    .next (if d = 0 ∨ 0xFFFF < n / d then divideError16 s
      else divided16 (BitVec.ofNat 16 (n / d)) (BitVec.ofNat 16 (n % d)) s)

/-- When a signed division of width N faults: divisor 0, quotient out of range, or quotient exactly the minimum while
`IDIV_MIN_QUOTIENT_TRAPS` (R134; 90_conflicts.md C6; log 15). -/
def idivFaults (w : Nat) (n d : Int) : Bool :=
  decide (d = 0) || !fitsSigned w (n.tdiv d) ||
    (decide (n.tdiv d = -((2 ^ (w - 1) : Nat) : Int)) && Config.idivMinQuotientTraps)

/-- R134, signed division truncating toward 0; the remainder has the dividend's sign. -/
def execIdiv (f : UnaryForm) (s : State) : Result :=
  match f with
  | .rm8 rm =>
    let d := (s.readRM8 rm).toInt
    let n := s.regs.ax.toInt
    .next (if idivFaults 8 n d then divideError8 s
      else divided8 (BitVec.ofInt 8 (n.tdiv d)) (BitVec.ofInt 8 (n.tmod d)) s)
  | .rm16 rm =>
    let d := (s.readRM16 rm).toInt
    let n := s.dxAx.toInt
    .next (if idivFaults 16 n d then divideError16 s
      else divided16 (BitVec.ofInt 16 (n.tdiv d)) (BitVec.ofInt 16 (n.tmod d)) s)

end Sys2Proof.Machine
end

