-- ==== Sys2Proof/Machine/Control.lean ====
section
/-! DEFINITION. The control transfer instructions, 42_control_transfer.md R190 to R231. While an instruction executes, `s.ip` is
`next_ip` (00_scope.md R15). -/

namespace Sys2Proof.Machine

/-! ### BOUND -/

/-- R191: signed comparison with the two words of the operand; out of range raises type 5 (90_conflicts.md C13; log 30). -/
def execBound (r : Reg16) (m : MemOp) (s : State) : Result :=
  .next (if (s.reg r).toInt < (s.readMem16 m).toInt ∨ (s.readMem16Next m).toInt < (s.reg r).toInt then
    s.interrupt 5 s.faultReturnIp else s)

/-! ### CALL -/

/-- Push `next_ip` and go to `target` (R192). -/
def State.callNear (s : State) (target : Word) : State := (s.push16 s.ip).jump target

/-- Push CS, load it, push `next_ip`, load IP (R194). -/
def State.callFar (s : State) (segment offset : Word) : State :=
  (((s.push16 s.segs.cs).setSeg .cs segment).push16 s.ip).jump offset

/-- R192. -/
def execCallNear (disp : Word) (s : State) : Result := .next (s.callNear (s.ip + disp))

/-- R193: the operand is read before the push (log 36). -/
def execCallNearInd (rm : RM16) (s : State) : Result := .next (s.callNear (s.readRM16 rm))

/-- R194. -/
def execCallFar (offset segment : Word) (s : State) : Result := .next (s.callFar segment offset)

/-- R195: both words are read before the pushes (log 36). -/
def execCallFarInd (m : MemOp) (s : State) : Result := .next (s.callFar (s.readMem16Next m) (s.readMem16 m))

/-! ### INT, INTO, IRET -/

/-- R196. -/
def execInt (t : Byte) (s : State) : Result := .next (s.interrupt t s.ip)

/-- R197. -/
def execInt3 (s : State) : Result := .next (s.interrupt 3 s.ip)

/-- R198. -/
def execInto (s : State) : Result := .next (if s.flags.OF then s.interrupt 4 s.ip else s)

/-- R199. -/
def execIret (s : State) : Result := .next s.interruptReturn

/-! ### Conditional jumps -/

/-- A short transfer: `next_ip + sext_16(disp8)` modulo 2^16 (R190). -/
def State.jumpShort (s : State) (disp : Byte) : State := s.jump (s.ip + disp.signExtend 16)

/-- R200. -/
def State.jumpIf (s : State) (cond : Bool) (disp : Byte) : State := if cond then s.jumpShort disp else s

/-- R201 (90_conflicts.md C1). -/
def execJa (disp : Byte) (s : State) : Result := .next (s.jumpIf (!s.flags.CF && !s.flags.ZF) disp)

/-- R202, and JNC R217. -/
def execJae (disp : Byte) (s : State) : Result := .next (s.jumpIf (!s.flags.CF) disp)

/-- R203, and JC R205. -/
def execJb (disp : Byte) (s : State) : Result := .next (s.jumpIf (s.flags.CF) disp)

/-- R204. -/
def execJbe (disp : Byte) (s : State) : Result := .next (s.jumpIf (s.flags.CF || s.flags.ZF) disp)

/-- R206. -/
def execJcxz (disp : Byte) (s : State) : Result := .next (s.jumpIf (s.regs.cx == 0) disp)

/-- R207. -/
def execJe (disp : Byte) (s : State) : Result := .next (s.jumpIf (s.flags.ZF) disp)

/-- R208. -/
def execJg (disp : Byte) (s : State) : Result := .next (s.jumpIf (s.flags.SF == s.flags.OF && !s.flags.ZF) disp)

/-- R209. -/
def execJge (disp : Byte) (s : State) : Result := .next (s.jumpIf (s.flags.SF == s.flags.OF) disp)

/-- R210. -/
def execJl (disp : Byte) (s : State) : Result := .next (s.jumpIf (s.flags.SF != s.flags.OF) disp)

/-- R211 (90_conflicts.md C2). -/
def execJle (disp : Byte) (s : State) : Result := .next (s.jumpIf (s.flags.SF != s.flags.OF || s.flags.ZF) disp)

/-- R218. -/
def execJne (disp : Byte) (s : State) : Result := .next (s.jumpIf (!s.flags.ZF) disp)

/-- R219. -/
def execJno (disp : Byte) (s : State) : Result := .next (s.jumpIf (!s.flags.OF) disp)

/-- R220. -/
def execJns (disp : Byte) (s : State) : Result := .next (s.jumpIf (!s.flags.SF) disp)

/-- R221. -/
def execJnp (disp : Byte) (s : State) : Result := .next (s.jumpIf (!s.flags.PF) disp)

/-- R222. -/
def execJo (disp : Byte) (s : State) : Result := .next (s.jumpIf (s.flags.OF) disp)

/-- R223. -/
def execJp (disp : Byte) (s : State) : Result := .next (s.jumpIf (s.flags.PF) disp)

/-- R224. -/
def execJs (disp : Byte) (s : State) : Result := .next (s.jumpIf (s.flags.SF) disp)

/-! ### JMP -/

/-- R212. -/
def execJmpShort (disp : Byte) (s : State) : Result := .next (s.jumpShort disp)

/-- R213. -/
def execJmpNear (disp : Word) (s : State) : Result := .next (s.jump (s.ip + disp))

/-- R214. -/
def execJmpNearInd (rm : RM16) (s : State) : Result := .next (s.jump (s.readRM16 rm))

/-- R215. -/
def execJmpFar (offset segment : Word) (s : State) : Result := .next (s.jumpFar segment offset)

/-- R216. -/
def execJmpFarInd (m : MemOp) (s : State) : Result := .next (s.jumpFar (s.readMem16Next m) (s.readMem16 m))

/-! ### LOOP -/

/-- CX lowered by 1 modulo 2^16, no flag changed (R225). -/
def State.countDown (s : State) : State := s.setReg .cx (s.regs.cx - 1)

/-- R225. -/
def execLoop (disp : Byte) (s : State) : Result := .next (s.countDown.jumpIf (s.countDown.regs.cx != 0) disp)

/-- R226. -/
def execLoope (disp : Byte) (s : State) : Result :=
  .next (s.countDown.jumpIf (s.flags.ZF && s.countDown.regs.cx != 0) disp)

/-- R227. -/
def execLoopne (disp : Byte) (s : State) : Result :=
  .next (s.countDown.jumpIf (!s.flags.ZF && s.countDown.regs.cx != 0) disp)

/-! ### RET -/

/-- `SP <- SP + n` modulo 2^16, no flag changed (R229). -/
def State.discard (s : State) (n : Word) : State := s.setReg .sp (s.regs.sp + n)

/-- R228. -/
def execRet (s : State) : Result := .next (s.dropTop.jump s.top)

/-- R229. -/
def execRetPop (n : Word) (s : State) : Result := .next ((s.dropTop.jump s.top).discard n)

/-- `IP <- pop16(); CS <- pop16()` (R230). -/
def State.returnFar (s : State) : State := (s.dropTop.dropTop).jumpFar s.dropTop.top s.top

/-- R230. -/
def execRetFar (s : State) : Result := .next s.returnFar

/-- R231. -/
def execRetFarPop (n : Word) (s : State) : Result := .next (s.returnFar.discard n)

end Sys2Proof.Machine
end

