-- ==== Sys2Proof/Machine/Data.lean ====
section
/-! DEFINITION. The data transfer, stack and I/O instructions, 45_data_transfer.md R300 to R319. -/

namespace Sys2Proof.Machine

/-! ### Stack frames -/

/-- One turn of ENTER's loop: BP goes down one frame pointer and the word it points at is pushed (R300, 90_conflicts.md C16). -/
def State.copyFramePointer (s : State) : State :=
  let t := s.setReg .bp (s.regs.bp - 2)
  t.push16 (t.read16 .ss t.regs.bp)

/-- R300, with the nesting level in use. -/
def State.enterFrame (s : State) (locals : Word) (level : Nat) : State :=
  let s1 := s.push16 s.regs.bp
  let fp := s1.regs.sp
  let s2 := if level = 0 then s1 else (repeatTimes (level - 1) State.copyFramePointer s1).push16 fp
  let s3 := s2.setReg .bp fp
  s3.setReg .sp (s3.regs.sp - locals)

/-- R300: the level as it stands up to 31, above that as `ENTER_LEVEL_MASK` says (log 16). -/
def execEnter (locals : Word) (level : Byte) (s : State) : Result :=
  .next (s.enterFrame locals (effectiveCount Config.enterLevelMaskedTo5 level))

/-- R301. -/
def execLeave (s : State) : Result :=
  let t := s.setReg .sp s.regs.bp
  .next (t.dropTop.setReg .bp t.top)

/-! ### Input and output -/

/-- The port number: an immediate zero-extended, or DX (R302). -/
def State.portNumber (s : State) : Port → Word
  | .imm p => p.zeroExtend 16
  | .dx => s.regs.dx

/-- R302: the value is the environment's (log 29). -/
def execInPort (w : Width) (p : Port) (s : State) : Result :=
  let n := s.portNumber p
  match w with
  | .byte =>
    let v := s.portIn8 n
    .next ((s.setReg8 .al v).afterPortRead n .byte (v.zeroExtend 16))
  | .word =>
    let v := s.portIn16 n
    .next ((s.setReg .ax v).afterPortRead n .word v)

/-- R303. -/
def execOutPort (w : Width) (p : Port) (s : State) : Result :=
  let n := s.portNumber p
  match w with
  | .byte => .next (s.portOut n .byte ((s.reg8 .al).zeroExtend 16))
  | .word => .next (s.portOut n .word s.regs.ax)

/-! ### Pointers and addresses -/

/-- R304: both words are read before anything is written (log 36). -/
def execLds (r : Reg16) (m : MemOp) (s : State) : Result :=
  .next ((s.setReg r (s.readMem16 m)).setSeg .ds (s.readMem16Next m))

/-- R305. -/
def execLea (r : Reg16) (m : MemOp) (s : State) : Result := .next (s.setReg r (s.ea m))

/-- R306. -/
def execLes (r : Reg16) (m : MemOp) (s : State) : Result :=
  .next ((s.setReg r (s.readMem16 m)).setSeg .es (s.readMem16Next m))

/-! ### MOV -/

/-- R307. -/
def execMov (f : MovForm) (s : State) : Result :=
  match f with
  | .rmReg8 rm r => .next (s.writeRM8 rm (s.reg8 r))
  | .rmReg16 rm r => .next (s.writeRM16 rm (s.reg r))
  | .regRm8 r rm => .next (s.setReg8 r (s.readRM8 rm))
  | .regRm16 r rm => .next (s.setReg r (s.readRM16 rm))
  | .alMem o => .next (s.setReg8 .al (s.readMem8 (.direct o)))
  | .axMem o => .next (s.setReg .ax (s.readMem16 (.direct o)))
  | .memAl o => .next (s.writeMem8 (.direct o) (s.reg8 .al))
  | .memAx o => .next (s.writeMem16 (.direct o) s.regs.ax)
  | .regImm8 r imm => .next (s.setReg8 r imm)
  | .regImm16 r imm => .next (s.setReg r imm)
  | .rmImm8 rm imm => .next (s.writeRM8 rm imm)
  | .rmImm16 rm imm => .next (s.writeRM16 rm imm)

/-- R308, from a segment register. -/
def execMovFromSeg (rm : RM16) (sr : SegReg) (s : State) : Result := .next (s.writeRM16 rm (s.seg sr))

/-- A segment register loaded by MOV or POP; no interrupt is recognised until the next instruction has executed
(60_exceptions.md R362; log 28). -/
def State.loadSeg (s : State) (sr : SegReg) (v : Word) : State := { s.setSeg sr v with segInhibit := true }

/-- R308, to a segment register; CS has no encoding and is refused (log 37). -/
def execMovToSeg (sr : SegReg) (rm : RM16) (s : State) : Result :=
  if sr = .cs then .refused .codeSegmentDestination else .next (s.loadSeg sr (s.readRM16 rm))

/-! ### POP and PUSH -/

/-- POP to a word operand: the word at the top, and SP raised by 2. For POP SP the outcome is as `POP_SP_RESULT` says: the
popped value, or that plus 2 (R309; log 17). -/
def State.popTo (s : State) (rm : RM16) : State :=
  match rm with
  | .reg .sp => s.setReg .sp (if Config.popSpAddsTwo then s.top + 2 else s.top)
  | .reg r => s.dropTop.setReg r s.top
  | .mem m => (s.writeMem16 m s.top).dropTop

/-- R309, 58H to 5FH. -/
def execPopReg (r : Reg16) (s : State) : Result := .next (s.popTo (.reg r))

/-- R309, 8FH. -/
def execPopRm (rm : RM16) (s : State) : Result := .next (s.popTo rm)

/-- R310; CS has no encoding and is refused ("CS illegal"; log 37). -/
def execPopSeg (sr : SegReg) (s : State) : Result :=
  if sr = .cs then .refused .codeSegmentDestination else .next (s.dropTop.loadSeg sr s.top)

/-- R311: the word PUSHA stored for SP is skipped (90_conflicts.md C15). -/
def execPopa (s : State) : Result :=
  let s1 := s.dropTop.setReg .di s.top
  let s2 := s1.dropTop.setReg .si s1.top
  let s3 := s2.dropTop.setReg .bp s2.top
  let s4 := s3.dropTop
  let s5 := s4.dropTop.setReg .bx s4.top
  let s6 := s5.dropTop.setReg .dx s5.top
  let s7 := s6.dropTop.setReg .cx s6.top
  .next (s7.dropTop.setReg .ax s7.top)

/-- R312. -/
def execPopf (s : State) : Result := .next (s.dropTop.setFlags (Flags.ofWord s.top))

/-- PUSH of a word operand: SP is lowered first, so PUSH SP stores the lowered value (R313); a memory operand is read before the
store, and its address does not involve SP. -/
def State.pushFrom (s : State) (rm : RM16) : State := s.push16 ((s.setReg .sp (s.regs.sp - 2)).readRM16 rm)

/-- R313, 50H to 57H. -/
def execPushReg (r : Reg16) (s : State) : Result := .next (s.pushFrom (.reg r))

/-- R313, FFH /6. -/
def execPushRm (rm : RM16) (s : State) : Result := .next (s.pushFrom rm)

/-- R314. -/
def execPushSeg (sr : SegReg) (s : State) : Result := .next (s.push16 (s.seg sr))

/-- R315, 68H. -/
def execPushImm16 (imm : Word) (s : State) : Result := .next (s.push16 imm)

/-- R315, 6AH: the byte is sign-extended (30_encoding.md R93). -/
def execPushImm8 (imm : Byte) (s : State) : Result := .next (s.push16 (imm.signExtend 16))

/-- R316: the SP pushed is the one before the first push. -/
def execPusha (s : State) : Result :=
  let g := s.regs
  .next ((((((((s.push16 g.ax).push16 g.cx).push16 g.dx).push16 g.bx).push16 g.sp).push16 g.bp).push16 g.si).push16 g.di)

/-- R317. -/
def execPushf (s : State) : Result := .next (s.push16 s.flags.toWord)

/-! ### XCHG and XLAT -/

/-- R318: both operands are read before either is written. -/
def execXchg (f : XchgForm) (s : State) : Result :=
  match f with
  | .rmReg8 rm r => .next ((s.writeRM8 rm (s.reg8 r)).setReg8 r (s.readRM8 rm))
  | .rmReg16 rm r => .next ((s.writeRM16 rm (s.reg r)).setReg r (s.readRM16 rm))

/-- R318, 91H to 97H. -/
def execXchgAx (r : Reg16) (s : State) : Result := .next ((s.setReg .ax (s.reg r)).setReg r s.regs.ax)

/-- R319: the byte at BX + AL, AL unsigned, in DS unless overridden. -/
def execXlat (s : State) : Result :=
  .next (s.setReg8 .al (s.read8 (s.segFor .ds) (s.regs.bx + (s.reg8 .al).zeroExtend 16)))

end Sys2Proof.Machine
end

