-- ==== Sys2Proof/Machine/Logic.lean ====
section
/-! DEFINITION. The logic, shift and rotate instructions, 41_logic_shift.md R160 to R173. -/

namespace Sys2Proof.Machine

/-! ### Logic -/

/-- `logic_N(r)` of a bitwise operation; AF is a free bit (R160). -/
def aluLogic (g : (w : Nat) → BitVec w → BitVec w → BitVec w) : AluOp := fun w a b s =>
  (g w a b, (s.setFlags (logicFlags s.flags (g w a b) (s.freeBit 4))).drawn 1)

def aluAnd : AluOp := aluLogic fun _ a b => a &&& b

def aluOr : AluOp := aluLogic fun _ a b => a ||| b

def aluXor : AluOp := aluLogic fun _ a b => a ^^^ b

/-- R161. -/
def execAnd (f : AluForm) (s : State) : Result := .next (runAlu aluAnd f s)

/-- R162: every bit inverted, no flag changes. -/
def execNot (f : UnaryForm) (s : State) : Result := .next (runUnary (fun _ a s => (~~~a, s)) f s)

/-- R163. -/
def execOr (f : AluForm) (s : State) : Result := .next (runAlu aluOr f s)

/-- R164: flags only. -/
def execTest (f : TestForm) (s : State) : Result := .next (runTest aluAnd f s)

/-- R165. -/
def execXor (f : AluForm) (s : State) : Result := .next (runAlu aluXor f s)

/-! ### Shifts and rotates -/

/-- The loop: `n` turns from the operand and CF (R166). -/
def turned {w : Nat} (turn : Turn w → Turn w) (n : Nat) (d : BitVec w) (s : State) : Turn w :=
  repeatTimes n turn (d, s.flags.CF)

/-- A rotate: CF and OF only (R167 to R170). -/
def rotateOp (turn : (w : Nat) → Turn w → Turn w) (ofRule : (w : Nat) → Turn w → Bool) : ShiftOp := fun w n d s =>
  let x := turned (turn w) n d s
  (x.1, (s.setFlags (rotateFlags s.flags n x (ofRule w) s.free)).drawn 1)

/-- A shift: the six status flags (R171 to R173). `ofValue` gives OF from the count, the loop's end and a free bit. -/
def shiftOp (turn : (w : Nat) → Turn w → Turn w) (ofValue : (w : Nat) → Nat → Turn w → Bool → Bool) : ShiftOp :=
  fun w n d s =>
    let x := turned (turn w) n d s
    (x.1, (s.setFlags (shiftFlags s.flags n x (ofValue w n x (s.freeBit 11)) s.free)).drawn 1)

/-- R167. -/
def execRcl (f : ShiftForm) (s : State) : Result := .next (runShift (rotateOp rclTurn fun _ => ofLeft) f s)

/-- R168. -/
def execRcr (f : ShiftForm) (s : State) : Result := .next (runShift (rotateOp rcrTurn fun _ => ofRight) f s)

/-- R169. -/
def execRol (f : ShiftForm) (s : State) : Result := .next (runShift (rotateOp rolTurn fun _ => ofLeft) f s)

/-- R170. -/
def execRor (f : ShiftForm) (s : State) : Result := .next (runShift (rotateOp rorTurn fun _ => ofRight) f s)

/-- R171: OF by the sign for a count of 1, else free. -/
def execShl (f : ShiftForm) (s : State) : Result :=
  .next (runShift (shiftOp shlTurn fun _ n x u => if n = 1 then ofLeft x else u) f s)

/-- R172: OF is 0 for every count of 1 or more. -/
def execSar (f : ShiftForm) (s : State) : Result := .next (runShift (shiftOp sarTurn fun _ _ _ _ => false) f s)

/-- R173: OF by the sign for a count of 1, else free. -/
def execShr (f : ShiftForm) (s : State) : Result :=
  .next (runShift (shiftOp shrTurn fun _ n x u => if n = 1 then ofRight x else u) f s)

end Sys2Proof.Machine
end

