-- ==== Sys2Proof/Machine/Processor.lean ====
section
/-! DEFINITION. Flag operations, processor control and the LOCK and segment override prefixes, 43_flag_processor_control.md R250
to R264. -/

namespace Sys2Proof.Machine

/-! ### Flag operations -/

/-- R250. -/
def execClc (s : State) : Result := .next (s.setFlags { s.flags with CF := false })

/-- R251. -/
def execCld (s : State) : Result := .next (s.setFlags { s.flags with DF := false })

/-- R252: IF <- 0, always allowed (60_exceptions.md R360). -/
def execCli (s : State) : Result := .next (s.setFlags { s.flags with IF := false })

/-- R253. -/
def execCmc (s : State) : Result := .next (s.setFlags { s.flags with CF := !s.flags.CF })

/-- R254. -/
def execStc (s : State) : Result := .next (s.setFlags { s.flags with CF := true })

/-- R255. -/
def execStd (s : State) : Result := .next (s.setFlags { s.flags with DF := true })

/-- R256: `sti_shadow` is set when IF was 0. -/
def execSti (s : State) : Result :=
  .next { s.setFlags { s.flags with IF := true } with stiShadow := s.stiShadow || !s.flags.IF }

/-- R257: SF, ZF, AF, PF, CF into bits 7, 6, 4, 2, 0 of AH; bits 5, 3 and 1 are free (log 49). -/
def execLahf (s : State) : Result :=
  let f := s.flags
  let image := flagAt f.SF 7 ||| flagAt f.ZF 6 ||| flagAt f.AF 4 ||| flagAt f.PF 2 ||| flagAt f.CF 0
  .next ((s.setReg8 .ah (image ||| (s.free &&& 0x002A)).lo).drawn 1)

/-- R258. -/
def execSahf (s : State) : Result :=
  let ah := s.reg8 .ah
  .next (s.setFlags { s.flags with
    SF := ah.getLsbD 7, ZF := ah.getLsbD 6, AF := ah.getLsbD 4, PF := ah.getLsbD 2, CF := ah.getLsbD 0 })

/-! ### Processor control -/

/-- R259. -/
def execNop (s : State) : Result := .next s

/-- R260, the LOCK prefix: the lock bit is set for the next instruction. -/
def execLock (s : State) : Result := .next { s with pre := { s.pre with active := true, lock := true } }

/-- R261, a segment override prefix: of two, the last governs (30_encoding.md R94). -/
def execSeg (r : SegReg) (s : State) : Result := .next { s with pre := { s.pre with active := true, seg := some r } }

/-- The word an ESC puts on the bus: its memory operand, none for a register operand (R262). -/
def State.escOperand (s : State) : RM16 → Option Word
  | .reg _ => none
  | .mem m => some (s.readMem16 m)

/-- R262: under `nop_with_read` the operand is read and put on the bus, nothing else changes; under `trap7` interrupt type 7
with the ESC's own offset saved (60_exceptions.md R349; log 18). -/
def execEsc (opcode : BitVec 6) (rm : RM16) (s : State) : Result :=
  .next (if Config.escTraps then s.interrupt 7 s.thisIp
    else { s with bus := .escape opcode (s.escOperand rm) :: s.bus })

/-- R263. -/
def execHlt (s : State) : Result := .next { s with halted := true }

/-- R264: with the test line active nothing happens, else the wait state is entered (log 25). -/
def execWait (s : State) : Result := .next (if s.lines.test then s else { s with waiting := true })

end Sys2Proof.Machine
end

