-- ==== Sys2Proof/Machine/Strings.lean ====
section
/-! DEFINITION. The string instructions and the repeat prefixes, 44_string.md R280 to R291. One step executes one repetition
(log 1). -/

namespace Sys2Proof.Machine

/-! ### Elements (R280) -/

/-- `DELTA`. -/
def Width.delta : Width → Word
  | .byte => 1
  | .word => 2

/-- Step an index register up or down as DF says, modulo 2^16 (R280). -/
def State.stepIndex (s : State) (w : Width) (r : Reg16) : State :=
  s.setReg r (if s.flags.DF then s.reg r - Width.delta w else s.reg r + Width.delta w)

/-- The segment of the source element: DS unless overridden (R280). -/
def State.sourceSeg (s : State) : SegReg := s.segFor .ds

def State.source8 (s : State) : Byte := s.read8 s.sourceSeg s.regs.si

def State.source16 (s : State) : Word := s.read16 s.sourceSeg s.regs.si

/-- The destination element at ES:DI, never overridden (R280). -/
def State.dest8 (s : State) : Byte := s.read8 .es s.regs.di

def State.dest16 (s : State) : Word := s.read16 .es s.regs.di

def State.storeDest8 (s : State) (v : Byte) : State := s.write8 .es s.regs.di v

def State.storeDest16 (s : State) (v : Word) : State := s.write16 .es s.regs.di v

/-! ### The primitives, once (R281 to R287) -/

/-- R281: source element minus destination element (90_conflicts.md C10). -/
def cmpsOnce (w : Width) (s : State) : State :=
  let t := match w with
    | .byte => (aluSub 8 s.source8 s.dest8 s).2
    | .word => (aluSub 16 s.source16 s.dest16 s).2
  (t.stepIndex w .si).stepIndex w .di

/-- R282. -/
def insOnce (w : Width) (s : State) : State :=
  let t := match w with
    | .byte =>
      let v := s.portIn8 s.regs.dx
      (s.storeDest8 v).afterPortRead s.regs.dx .byte (v.zeroExtend 16)
    | .word =>
      let v := s.portIn16 s.regs.dx
      (s.storeDest16 v).afterPortRead s.regs.dx .word v
  t.stepIndex w .di

/-- R283. -/
def lodsOnce (w : Width) (s : State) : State :=
  let t := match w with
    | .byte => s.setReg8 .al s.source8
    | .word => s.setReg .ax s.source16
  t.stepIndex w .si

/-- R284. -/
def movsOnce (w : Width) (s : State) : State :=
  let t := match w with
    | .byte => s.storeDest8 s.source8
    | .word => s.storeDest16 s.source16
  (t.stepIndex w .si).stepIndex w .di

/-- R285. -/
def outsOnce (w : Width) (s : State) : State :=
  let t := match w with
    | .byte => s.portOut s.regs.dx .byte (s.source8.zeroExtend 16)
    | .word => s.portOut s.regs.dx .word s.source16
  t.stepIndex w .si

/-- R286: accumulator minus destination element (90_conflicts.md C9). -/
def scasOnce (w : Width) (s : State) : State :=
  let t := match w with
    | .byte => (aluSub 8 (s.reg8 .al) s.dest8 s).2
    | .word => (aluSub 16 s.regs.ax s.dest16 s).2
  t.stepIndex w .di

/-- R287. -/
def stosOnce (w : Width) (s : State) : State :=
  let t := match w with
    | .byte => s.storeDest8 (s.reg8 .al)
    | .word => s.storeDest16 s.regs.ax
  t.stepIndex w .di

/-! ### Repetition (R290, R291) -/

/-- One turn of a string instruction. Without a repeat prefix the primitive runs once. With one: nothing when CX is 0; else the
primitive runs, CX is lowered, and the loop ends when CX is 0 or, for CMPS and SCAS, when the ZF just posted differs from
the prefix's `z`; if it does not end, IP goes back to `this_ip`, so that the instruction goes on from its first prefix (R290,
R291; 90_conflicts.md C11; log 1). -/
def repeated (compares : Bool) (once : State → State) (s : State) : State :=
  match s.pre.rep with
  | none => once s
  | some z =>
    if s.regs.cx = 0 then s
    else
      let t := once s
      let t := t.setReg .cx (t.regs.cx - 1)
      if t.regs.cx = 0 ∨ (compares ∧ t.flags.ZF ≠ z) then t
      else { t with ip := t.thisIp, pre := { t.pre with again := true } }

/-- R281. -/
def execCmps (w : Width) (s : State) : Result := .next (repeated true (cmpsOnce w) s)

/-- R282. -/
def execIns (w : Width) (s : State) : Result := .next (repeated false (insOnce w) s)

/-- R283. -/
def execLods (w : Width) (s : State) : Result := .next (repeated false (lodsOnce w) s)

/-- R284. -/
def execMovs (w : Width) (s : State) : Result := .next (repeated false (movsOnce w) s)

/-- R285. -/
def execOuts (w : Width) (s : State) : Result := .next (repeated false (outsOnce w) s)

/-- R286. -/
def execScas (w : Width) (s : State) : Result := .next (repeated true (scasOnce w) s)

/-- R287. -/
def execStos (w : Width) (s : State) : Result := .next (repeated false (stosOnce w) s)

/-- R290: REP, REPE, REPZ, one prefix byte with `z` = 1; of two repeat prefixes the last governs (30_encoding.md R94). -/
def execRep (s : State) : Result := .next { s with pre := { s.pre with active := true, rep := some true } }

/-- R290: REPNE, REPNZ, one prefix byte with `z` = 0. -/
def execRepne (s : State) : Result := .next { s with pre := { s.pre with active := true, rep := some false } }

end Sys2Proof.Machine
end

