-- ==== Sys2Proof/Machine/Dispatch.lean ====
section
/-! DEFINITION. The dispatch: one arm per constructor of `Instr`, each one direct call of its meaning. -/

namespace Sys2Proof.Machine

def exec (i : Instr) (s : State) : Host.Outcome State Fault Refusal :=
  match i with
  | .aaa => Sys2Proof.Machine.execAaa s
  | .aad => Sys2Proof.Machine.execAad s
  | .aam => Sys2Proof.Machine.execAam s
  | .aas => Sys2Proof.Machine.execAas s
  | .adc f => Sys2Proof.Machine.execAdc f s
  | .add f => Sys2Proof.Machine.execAdd f s
  | .cbw => Sys2Proof.Machine.execCbw s
  | .cmp f => Sys2Proof.Machine.execCmp f s
  | .cwd => Sys2Proof.Machine.execCwd s
  | .daa => Sys2Proof.Machine.execDaa s
  | .das => Sys2Proof.Machine.execDas s
  | .dec f => Sys2Proof.Machine.execDec f s
  | .div f => Sys2Proof.Machine.execDiv f s
  | .idiv f => Sys2Proof.Machine.execIdiv f s
  | .imul f => Sys2Proof.Machine.execImul f s
  | .imulImm16 r rm imm => Sys2Proof.Machine.execImulImm16 r rm imm s
  | .imulImm8 r rm imm => Sys2Proof.Machine.execImulImm8 r rm imm s
  | .inc f => Sys2Proof.Machine.execInc f s
  | .mul f => Sys2Proof.Machine.execMul f s
  | .neg f => Sys2Proof.Machine.execNeg f s
  | .sbb f => Sys2Proof.Machine.execSbb f s
  | .sub f => Sys2Proof.Machine.execSub f s
  | .and f => Sys2Proof.Machine.execAnd f s
  | .not f => Sys2Proof.Machine.execNot f s
  | .or f => Sys2Proof.Machine.execOr f s
  | .test f => Sys2Proof.Machine.execTest f s
  | .xor f => Sys2Proof.Machine.execXor f s
  | .rcl f => Sys2Proof.Machine.execRcl f s
  | .rcr f => Sys2Proof.Machine.execRcr f s
  | .rol f => Sys2Proof.Machine.execRol f s
  | .ror f => Sys2Proof.Machine.execRor f s
  | .shl f => Sys2Proof.Machine.execShl f s
  | .sar f => Sys2Proof.Machine.execSar f s
  | .shr f => Sys2Proof.Machine.execShr f s
  | .bound r m => Sys2Proof.Machine.execBound r m s
  | .callNear disp => Sys2Proof.Machine.execCallNear disp s
  | .callNearInd rm => Sys2Proof.Machine.execCallNearInd rm s
  | .callFar offset segment => Sys2Proof.Machine.execCallFar offset segment s
  | .callFarInd m => Sys2Proof.Machine.execCallFarInd m s
  | .int t => Sys2Proof.Machine.execInt t s
  | .int3 => Sys2Proof.Machine.execInt3 s
  | .into => Sys2Proof.Machine.execInto s
  | .iret => Sys2Proof.Machine.execIret s
  | .ja disp => Sys2Proof.Machine.execJa disp s
  | .jae disp => Sys2Proof.Machine.execJae disp s
  | .jb disp => Sys2Proof.Machine.execJb disp s
  | .jbe disp => Sys2Proof.Machine.execJbe disp s
  | .jcxz disp => Sys2Proof.Machine.execJcxz disp s
  | .je disp => Sys2Proof.Machine.execJe disp s
  | .jg disp => Sys2Proof.Machine.execJg disp s
  | .jge disp => Sys2Proof.Machine.execJge disp s
  | .jl disp => Sys2Proof.Machine.execJl disp s
  | .jle disp => Sys2Proof.Machine.execJle disp s
  | .jne disp => Sys2Proof.Machine.execJne disp s
  | .jno disp => Sys2Proof.Machine.execJno disp s
  | .jns disp => Sys2Proof.Machine.execJns disp s
  | .jnp disp => Sys2Proof.Machine.execJnp disp s
  | .jo disp => Sys2Proof.Machine.execJo disp s
  | .jp disp => Sys2Proof.Machine.execJp disp s
  | .js disp => Sys2Proof.Machine.execJs disp s
  | .jmpShort disp => Sys2Proof.Machine.execJmpShort disp s
  | .jmpNear disp => Sys2Proof.Machine.execJmpNear disp s
  | .jmpNearInd rm => Sys2Proof.Machine.execJmpNearInd rm s
  | .jmpFar offset segment => Sys2Proof.Machine.execJmpFar offset segment s
  | .jmpFarInd m => Sys2Proof.Machine.execJmpFarInd m s
  | .loop disp => Sys2Proof.Machine.execLoop disp s
  | .loope disp => Sys2Proof.Machine.execLoope disp s
  | .loopne disp => Sys2Proof.Machine.execLoopne disp s
  | .ret => Sys2Proof.Machine.execRet s
  | .retPop n => Sys2Proof.Machine.execRetPop n s
  | .retFar => Sys2Proof.Machine.execRetFar s
  | .retFarPop n => Sys2Proof.Machine.execRetFarPop n s
  | .clc => Sys2Proof.Machine.execClc s
  | .cld => Sys2Proof.Machine.execCld s
  | .cli => Sys2Proof.Machine.execCli s
  | .cmc => Sys2Proof.Machine.execCmc s
  | .stc => Sys2Proof.Machine.execStc s
  | .std => Sys2Proof.Machine.execStd s
  | .sti => Sys2Proof.Machine.execSti s
  | .lahf => Sys2Proof.Machine.execLahf s
  | .sahf => Sys2Proof.Machine.execSahf s
  | .nop => Sys2Proof.Machine.execNop s
  | .lock => Sys2Proof.Machine.execLock s
  | .seg r => Sys2Proof.Machine.execSeg r s
  | .esc opcode rm => Sys2Proof.Machine.execEsc opcode rm s
  | .hlt => Sys2Proof.Machine.execHlt s
  | .wait => Sys2Proof.Machine.execWait s
  | .cmps w => Sys2Proof.Machine.execCmps w s
  | .ins w => Sys2Proof.Machine.execIns w s
  | .lods w => Sys2Proof.Machine.execLods w s
  | .movs w => Sys2Proof.Machine.execMovs w s
  | .outs w => Sys2Proof.Machine.execOuts w s
  | .scas w => Sys2Proof.Machine.execScas w s
  | .stos w => Sys2Proof.Machine.execStos w s
  | .rep => Sys2Proof.Machine.execRep s
  | .repne => Sys2Proof.Machine.execRepne s
  | .enter locals level => Sys2Proof.Machine.execEnter locals level s
  | .leave => Sys2Proof.Machine.execLeave s
  | .inPort w p => Sys2Proof.Machine.execInPort w p s
  | .outPort w p => Sys2Proof.Machine.execOutPort w p s
  | .lds r m => Sys2Proof.Machine.execLds r m s
  | .lea r m => Sys2Proof.Machine.execLea r m s
  | .les r m => Sys2Proof.Machine.execLes r m s
  | .mov f => Sys2Proof.Machine.execMov f s
  | .movFromSeg rm sr => Sys2Proof.Machine.execMovFromSeg rm sr s
  | .movToSeg sr rm => Sys2Proof.Machine.execMovToSeg sr rm s
  | .popReg r => Sys2Proof.Machine.execPopReg r s
  | .popRm rm => Sys2Proof.Machine.execPopRm rm s
  | .popSeg sr => Sys2Proof.Machine.execPopSeg sr s
  | .popa => Sys2Proof.Machine.execPopa s
  | .popf => Sys2Proof.Machine.execPopf s
  | .pushReg r => Sys2Proof.Machine.execPushReg r s
  | .pushRm rm => Sys2Proof.Machine.execPushRm rm s
  | .pushSeg sr => Sys2Proof.Machine.execPushSeg sr s
  | .pushImm16 imm => Sys2Proof.Machine.execPushImm16 imm s
  | .pushImm8 imm => Sys2Proof.Machine.execPushImm8 imm s
  | .pusha => Sys2Proof.Machine.execPusha s
  | .pushf => Sys2Proof.Machine.execPushf s
  | .xchg f => Sys2Proof.Machine.execXchg f s
  | .xchgAx r => Sys2Proof.Machine.execXchgAx r s
  | .xlat => Sys2Proof.Machine.execXlat s

end Sys2Proof.Machine
end

