-- ==== Sys2Proof/Machine/Fetch.lean ====
section
/-! DEFINITION. What a step does around the instruction's own meaning: fetching through the prefetch queue (20_memory.md R72),
the refused prefix combinations (30_encoding.md R94), and the recognition of interrupts (60_exceptions.md R350 to R353, R361,
R362). -/

namespace Sys2Proof.Machine

/-! ### Fetching and program text (20_memory.md R72; log 22) -/

/-- The physical address of the byte at offset `o` of the code segment. -/
def State.codeAddr (s : State) (o : Word) : Nat := phys s.segs.cs o

/-- The addresses of the bytes at CS:o, CS:o+1, ...; the offset wraps modulo 2^16 (10_state.md R24). -/
def State.codeAddrs (s : State) (o : Word) (n : Nat) : List Nat :=
  match n with
  | 0 => []
  | k + 1 => s.codeAddr o :: s.codeAddrs (o + 1) k

/-- The queued byte of an address, if the queue holds it. -/
def queueFind (q : List Host.Cell) (a : Nat) : Option Byte :=
  match q with
  | [] => none
  | (k, v) :: t => if k = a then some v else queueFind t a

/-- The instruction byte at offset `o`: from the prefetch queue if it holds the byte, which does not see a later store, else
from memory (R72). -/
def State.codeByte (s : State) (o : Word) : Byte := (queueFind s.queue (s.codeAddr o)).getD (s.mem.read (s.codeAddr o))

/-- The `n` instruction bytes from offset `o`. -/
def State.codeBytes (s : State) (o : Word) (n : Nat) : Bytes :=
  match n with
  | 0 => []
  | k + 1 => s.codeByte o :: s.codeBytes (o + 1) k

/-- The bytes an instruction without prefixes can span. -/
def State.fetchBytes (s : State) : Bytes := s.codeBytes s.ip maxInstrBytes

/-- The queue entries for `n` bytes from offset `o`: a byte already queued keeps its value. -/
def State.queueFrom (s : State) (o : Word) (n : Nat) : List Host.Cell :=
  match n with
  | 0 => []
  | k + 1 => (s.codeAddr o, s.codeByte o) :: s.queueFrom (o + 1) k

/-- How many queued bytes there are from offset `o` on. -/
def State.queuedFrom (s : State) (o : Word) : Nat := (s.queue.dropWhile fun c => c.1 != s.codeAddr o).length

/-- Whether one of the `n` instruction bytes from offset `o` was stored to in this run (R72). -/
def State.storedFrom (s : State) (o : Word) (n : Nat) : Bool := (s.codeAddrs o n).any s.stored.contains

/-- `s` with the `n` bytes from IP recorded as executed. -/
def State.executing (s : State) (n : Nat) : State :=
  { s with executed := (s.codeAddrs s.ip n).foldl recorded s.executed }

/-- The bytes that make an encoding undefined: the opcode, or the opcode and the byte after it. The spec gives such bytes no
length; these are the ones the model takes to be executed and asks R72's question of (DESIGN CHOICE; log 19). -/
def DecodeError.span : DecodeError → Nat
  | .truncated => maxInstrBytes
  | .undefinedOpcode _ => 1
  | .undefinedGroup _ _ | .registerOperand _ | .segmentNumber _ _ | .codeSegmentLoad | .decimalBase _ _ => 2

def Region.holds (r : Region) (a : Nat) : Bool := decide (r.base ≤ a) && decide (a < r.base + r.size)

/-- Whether the byte at `a` belongs to an instruction that may still execute: program text as the parameter gives it, and every
byte that has been executed (R72). -/
def State.mayExecute (s : State) (a : Nat) : Bool := s.text.any (fun r => Region.holds r a) || s.executed.contains a

/-- Whether `t`, reached from `s`, has a store of its own in program text. -/
def State.storesIntoText (s t : State) : Bool :=
  (t.stored.take (t.stored.length - s.stored.length)).any t.mayExecute

/-- Program text is fixed for a run: a step from `s` that stores into it has no meaning (R72, 92_eei_decisions.md D14). -/
def State.settle (s : State) : Result → Result
  | .next t => if s.storesIntoText t then .refused .storeIntoProgramText else .next t
  | .fault f => .fault f
  | .refused r => .refused r

/-! ### Prefixes (30_encoding.md R94; log 21) -/

/-- The prefix rows of the opcode table. -/
def Instr.isPrefix : Instr → Bool
  | .lock | .seg _ | .rep | .repne => true
  | _ => false

/-- The seven primitives a repeat prefix may stand before (44_string.md R290). -/
def Instr.isString : Instr → Bool
  | .cmps _ | .ins _ | .lods _ | .movs _ | .outs _ | .scas _ | .stos _ => true
  | _ => false

def RM8.isMem : RM8 → Bool
  | .reg _ => false
  | .mem _ => true

def RM16.isMem : RM16 → Bool
  | .reg _ => false
  | .mem _ => true

def AluForm.storesToMemory : AluForm → Bool
  | .rmReg8 rm _ | .rmImm8 rm _ | .rmImm8Alias rm _ => RM8.isMem rm
  | .rmReg16 rm _ | .rmImm16 rm _ | .rmImmSx rm _ => RM16.isMem rm
  | .regRm8 _ _ | .regRm16 _ _ | .al _ | .ax _ => false

def UnaryForm.storesToMemory : UnaryForm → Bool
  | .rm8 rm => RM8.isMem rm
  | .rm16 rm => RM16.isMem rm

def IncForm.storesToMemory : IncForm → Bool
  | .reg16 _ => false
  | .rm8 rm => RM8.isMem rm
  | .rm16 rm => RM16.isMem rm

def ShiftForm.storesToMemory : ShiftForm → Bool
  | .rm8 rm _ => RM8.isMem rm
  | .rm16 rm _ => RM16.isMem rm

def MovForm.storesToMemory : MovForm → Bool
  | .rmReg8 rm _ | .rmImm8 rm _ => RM8.isMem rm
  | .rmReg16 rm _ | .rmImm16 rm _ => RM16.isMem rm
  | .memAl _ | .memAx _ => true
  | .regRm8 _ _ | .regRm16 _ _ | .alMem _ | .axMem _ | .regImm8 _ _ | .regImm16 _ _ => false

def XchgForm.storesToMemory : XchgForm → Bool
  | .rmReg8 rm _ => RM8.isMem rm
  | .rmReg16 rm _ => RM16.isMem rm

/-- Whether the instruction has a memory destination: its rule stores to memory whenever it has its ordinary effect, to an
operand, to ES:DI or to the stack (30_encoding.md R94; log 21). -/
def Instr.hasMemoryDestination : Instr → Bool
  | .adc f | .add f | .sbb f | .sub f | .and f | .or f | .xor f => AluForm.storesToMemory f
  | .dec f | .inc f => IncForm.storesToMemory f
  | .neg f | .not f => UnaryForm.storesToMemory f
  | .rcl f | .rcr f | .rol f | .ror f | .shl f | .sar f | .shr f => ShiftForm.storesToMemory f
  | .mov f => MovForm.storesToMemory f
  | .xchg f => XchgForm.storesToMemory f
  | .movFromSeg rm _ | .popRm rm => RM16.isMem rm
  | .ins _ | .movs _ | .stos _ => true
  | .pushReg _ | .pushRm _ | .pushSeg _ | .pushImm16 _ | .pushImm8 _ | .pusha | .pushf | .enter _ _ => true
  | .callNear _ | .callNearInd _ | .callFar _ _ | .callFarInd _ | .int _ | .int3 => true
  | _ => false

/-- The prefix combinations without a defined effect (30_encoding.md R94, 92_eei_decisions.md D26). A segment override with
nothing to override is ignored. -/
def State.prefixRefusal (s : State) (i : Instr) : Option Refusal :=
  if Instr.isPrefix i then none
  else if s.pre.rep.isSome && !Instr.isString i then some .repeatBeforeNonString
  else if s.pre.lock && !Instr.hasMemoryDestination i then some .lockWithoutMemoryDestination
  else none

/-! ### The boundary after an instruction (60_exceptions.md R353, R362) -/

/-- The NMI sequence; the latched request is consumed (60_exceptions.md R351). -/
def State.takeNmi (s : State) (ret : Word) : State :=
  { s with lines := { s.lines with nmi := false } }.interrupt Config.nmiType ret

/-- The INTR sequence with the controller's type; the acknowledge ends the request (60_exceptions.md R350; log 23). -/
def State.takeIntr (s : State) (t : Byte) (ret : Word) : State :=
  { s with lines := { s.lines with intr := none } }.interrupt t ret

/-- An external request may be recognised: no `seg_inhibit`, and NMI, or INTR with IF = 1 and `sti_shadow` = 0 (R350, R351,
R362). -/
def State.externalDue (s : State) : Bool :=
  !s.segInhibit && (s.lines.nmi || (s.lines.intr.isSome && s.flags.IF && !s.stiShadow))

/-- The offset an interrupt saves that is taken outside an instruction: the current IP, but during WAIT that of WAIT itself
(60_exceptions.md R340). -/
def State.returnIp (s : State) : Word := if s.waiting then s.thisIp else s.ip

/-- Step 2 of R353: NMI, else a maskable request while IF = 1 and `sti_shadow` = 0. -/
def State.takeExternal (s : State) : State :=
  if s.externalDue then
    if s.lines.nmi then s.takeNmi s.returnIp
    else
      match s.lines.intr with
      | some t => s.takeIntr t s.returnIp
      | none => s
  else s

/-- Step 3 of R353: the single-step trap, on top of what step 2 stacked. -/
def State.takeTrap (s : State) : State :=
  if s.trapArmed && !s.segInhibit then { s.interrupt Config.singleStepType s.returnIp with trapArmed := false } else s

/-- The boundary after every instruction, HLT and a WAIT that has entered the wait state included (R353, R362; log 25). -/
def State.boundary (s : State) : State := s.takeExternal.takeTrap

/-! ### Before and after the meaning -/

/-- `this_ip` of the instruction whose next byte is at IP: its first prefix byte, if one has been executed (00_scope.md R15). -/
def State.startIp (s : State) : Word := if s.pre.active then s.thisIp else s.ip

/-- The state a meaning runs on: `ip` is `next_ip`, `n` bytes on; `thisIp` is `this_ip`; `trap_armed` samples TF (R352, R362);
the `n` bytes are executed, so program text; the queue holds what may have been fetched, from `this_ip` to `PREFETCH_BYTES`
beyond `next_ip` and as far as it reached before (20_memory.md R72). -/
def State.begin (s : State) (n : Nat) : State :=
  let next := s.ip + BitVec.ofNat 16 n
  let reach := (next - s.startIp).toNat + Config.prefetchBytes
  { s.executing n with
    ip := next
    thisIp := s.startIp
    trapArmed := s.flags.TF
    queue := s.queueFrom s.startIp (max (s.queuedFrom s.startIp) reach) }

/-- `begin` for an instruction that is no prefix: `sti_shadow` and `seg_inhibit` cover it and end with it, unless it sets them
anew (R362). -/
def State.beginInstr (s : State) (i : Instr) (n : Nat) : State :=
  if Instr.isPrefix i then s.begin n else { s.begin n with stiShadow := false, segInhibit := false }

/-- The end of an instruction or repetition: the prefixes end (10_state.md R32), then comes the boundary. Between repetitions
the instruction has not ended, so `sti_shadow` and `seg_inhibit` stay as they were before it (`s`). -/
def State.endInstr (s t : State) : State :=
  if t.pre.again then { t with pre := {}, stiShadow := s.stiShadow, segInhibit := s.segInhibit }.boundary
  else { t with pre := {} }.boundary

/-- What a step does with a meaning's answer: nothing after a prefix, for no interrupt is recognised between a prefix and its
instruction (R362 (a)); else `endInstr`. -/
def State.finish (s : State) (i : Instr) : Result → Result
  | .next t => .next (if Instr.isPrefix i then t else s.endInstr t)
  | .fault f => .fault f
  | .refused r => .refused r

/-- The requests are looked at before every repetition, the first included (44_string.md R290, R291): one is due before the
repetition this step would execute. -/
def State.repetitionInterrupted (s : State) (i : Instr) : Bool :=
  Instr.isString i && s.pre.rep.isSome && s.regs.cx != 0 && s.externalDue

/-- The request is taken before the repetition, with `this_ip` saved; the prefixes act again on return (R291). -/
def State.interruptRepetition (s : State) : State := { s with ip := s.startIp, pre := {} }.takeExternal

/-- Bytes that are no instruction: `UNDEFINED_OPCODE_ACTION`, type 6 with `this_ip` saved or no meaning (60_exceptions.md R348;
log 19). The bytes of AAM and AAD with another base are refused (30_encoding.md R99). Prefixes before such bytes, a repeat prefix
or LOCK too, make no difference but to `this_ip`: 30_encoding.md R94 speaks of instructions only (DESIGN CHOICE; log 19). -/
def State.undefinedEncoding (s : State) (e : DecodeError) : Result :=
  match e with
  | .decimalBase op b => .refused (.undefinedEncoding (.decimalBase op b))
  | .truncated => .refused (.undefinedEncoding .truncated)
  | e =>
    if Config.undefinedOpcodeTraps then
      let t := { (s.begin 0).executing (DecodeError.span e) with stiShadow := false, segInhibit := false }
      .next (s.endInstr (t.interrupt 6 t.thisIp))
    else .refused (.undefinedEncoding e)

/-! ### The halt and wait states, RESET (60_exceptions.md R361, R362; 70_reset_and_hazards.md R380) -/

/-- A step in the halt or wait state: a request is recognised at once; else an active test line ends the wait, with no boundary
(R362); else nothing. -/
def State.idle (s : State) : State :=
  if s.lines.nmi then s.takeNmi s.returnIp
  else
    match s.lines.intr, s.flags.IF with
    | some t, true => s.takeIntr t s.returnIp
    | _, _ => if s.waiting && s.lines.test then { s with waiting := false } else s

/-- RESET (70_reset_and_hazards.md R380): CS, IP, DS, ES, SS, the flags and the hidden state as after reset; the general
registers unspecified, so free values; memory with the program in it and its text, the environment's lines and its record stay
(log 24), and a new run begins (log 22). -/
def State.onReset (s : State) : State :=
  { State.reset with
    regs := {
      ax := s.free 0, cx := s.free 1, dx := s.free 2, bx := s.free 3
      sp := s.free 4, bp := s.free 5, si := s.free 6, di := s.free 7 }
    lines := { s.lines with reset := false }
    bus := s.bus
    text := s.text
    draws := s.draws + 8
    mem := s.mem }

/-! ### Loading a program from outside (log 41) -/

/-- The bytes stored at ascending offsets of the code segment. -/
def State.storeCode (s : State) (o : Word) : Bytes → State
  | [] => s
  | b :: t => State.storeCode { s with mem := s.mem.write (s.codeAddr o) b } (o + 1) t

/-- The bytes as a program from offset `o` of the code segment on: in memory, and as program text (20_memory.md R72; log 22). -/
def State.load (s : State) (o : Word) (code : Bytes) : State :=
  { s.storeCode o code with text := (s.codeAddrs o code.length).map (fun a => { base := a, size := 1 }) ++ s.text }

end Sys2Proof.Machine
end

