-- ==== Sys2Proof/Machine/Step.lean ====
section
/-! DEFINITION. One step of the machine (60_exceptions.md R362): in the halt or wait state look for a request; else decode at
CS:IP, execute, and come to the boundary. A prefix byte and a repetition of a string instruction are steps of their own
(log 1). -/

namespace Sys2Proof.Machine

/-- One step. A byte of the instruction, or of what makes an encoding undefined (log 19), that was stored to in this run has
no meaning, and neither has a step that stores into program text (20_memory.md R72; log 22). -/
def step (s : State) : Host.Outcome State Fault Refusal :=
  s.settle <|
    if s.lines.reset then .next s.onReset
    else if s.halted || s.waiting then .next s.idle
    else
      match decode s.fetchBytes with
      | .ok (i, rest) =>
        let n := maxInstrBytes - rest.length
        if s.storedFrom s.ip n then .refused .staleInstructionByte
        else
          match s.prefixRefusal i with
          | some r => .refused r
          | none =>
            if s.repetitionInterrupted i then .next s.interruptRepetition
            else s.finish i (exec i (s.beginInstr i n))
      | .error e =>
        if s.storedFrom s.ip (DecodeError.span e) then .refused .staleInstructionByte else s.undefinedEncoding e

/-- `s` with a number of the opcode table loaded where the next step fetches, opcode byte first (30_encoding.md R100). The fetch
also needs: no RESET, not halted or waiting, no older byte in the prefetch queue, and no record of what an earlier run executed
and stored (log 41). -/
def State.withFetchWord (s : State) (nbits w : Nat) : State :=
  { s.load s.ip (tableBytes nbits w) with
    halted := false, waiting := false, lines := { s.lines with reset := false }, queue := [], executed := [], stored := [] }

end Sys2Proof.Machine
end

