-- ==== Sys2Proof/Safety.lean ====
section
/-! DEFINITION. The terms claims are stated in: consistent and final states, what a transition keeps, what an instruction's
operands are, and what it means that a destination got a value or that an interrupt was entered. -/

namespace Sys2Proof.Machine

/-! ### States -/

/-- No prefix is in force unless a prefix byte of the instruction in progress has been executed (10_state.md R32), and the
repetition mark does not outlive its step. -/
def Prefixes.consistent (p : Prefixes) : Bool :=
  !p.again && (p.active || (p.seg.isNone && p.rep.isNone && !p.lock))

/-- No byte of program text has been stored to in this run (20_memory.md R72; log 22). -/
def State.textIsFixed (s : State) : Bool := s.stored.all fun a => !s.mayExecute a

/-- A queued byte is the byte in memory, but where this run has stored to it (20_memory.md R72; log 22). -/
def State.queueIsCoherent (s : State) : Bool := s.queue.all fun c => s.stored.contains c.1 || s.mem.read c.1 == c.2

/-- What every step keeps: memory in its canonical form, the prefixes in force consistent, the halt and wait states exclusive
and neither entered in the middle of a prefixed instruction, program text fixed, and the prefetch queue coherent. -/
def State.consistent (s : State) : Bool :=
  s.mem.wf && s.pre.consistent && !(s.halted && s.waiting) && !((s.halted || s.waiting) && s.pre.active) &&
    s.textIsFixed && s.queueIsCoherent

/-- The run has come to HLT and no request ends the halt: the state is final (43_flag_processor_control.md R263). -/
def State.final (s : State) : Bool :=
  s.halted && !s.waiting && !s.lines.reset && !s.lines.nmi && !(s.lines.intr.isSome && s.flags.IF)

/-! ### Frames -/

/-- From `s` to `t` nothing changed but the named general registers, the named segment registers, the bytes at the named
physical addresses, which are the ones stored to, and what is not mentioned: IP, the flags, the bus record, the prefetch
queue, the draw counter. -/
def State.keeps (s t : State) (regs : List Reg16) (segs : List SegReg) (bytes : List Nat) : Prop :=
  (∀ r, r ∉ regs → t.reg r = s.reg r) ∧ (∀ r, r ∉ segs → t.seg r = s.seg r) ∧
    (∀ a, a ∉ bytes → t.mem.read a = s.mem.read a) ∧ t.thisIp = s.thisIp ∧ t.halted = s.halted ∧ t.waiting = s.waiting ∧
    t.stiShadow = s.stiShadow ∧ t.segInhibit = s.segInhibit ∧ t.trapArmed = s.trapArmed ∧ t.pre = s.pre ∧
    t.lines = s.lines ∧ t.text = s.text ∧ t.executed = s.executed ∧ ∀ a, a ∈ t.stored ↔ a ∈ bytes ∨ a ∈ s.stored

/-- Control goes on to the next instruction (during an instruction IP is `next_ip`, 00_scope.md R15), and no port is touched.
-/
def State.goesOn (s t : State) : Prop := t.ip = s.ip ∧ t.bus = s.bus ∧ t.queue = s.queue

/-- The nine flags lie in the word `w` at their positions (10_state.md R25). -/
def Flags.inWord (f : Flags) (w : Word) : Prop :=
  w.getLsbD 0 = f.CF ∧ w.getLsbD 2 = f.PF ∧ w.getLsbD 4 = f.AF ∧ w.getLsbD 6 = f.ZF ∧ w.getLsbD 7 = f.SF ∧
    w.getLsbD 8 = f.TF ∧ w.getLsbD 9 = f.IF ∧ w.getLsbD 10 = f.DF ∧ w.getLsbD 11 = f.OF

/-- The three control flags are as before. -/
def Flags.keepsControl (f g : Flags) : Prop := g.DF = f.DF ∧ g.IF = f.IF ∧ g.TF = f.TF

/-- The physical addresses of the two bytes of the word at offset `o` of a segment. -/
def State.wordBytes (s : State) (r : SegReg) (o : Word) : List Nat := [phys (s.seg r) o, physHigh (s.seg r) o]

/-! ### Destinations -/

/-- The 16-bit register a byte operand lies in, if it is a register. -/
def RM8.registers : RM8 → List Reg16
  | .reg r => [Reg8.parent r]
  | .mem _ => []

def RM16.registers : RM16 → List Reg16
  | .reg r => [r]
  | .mem _ => []

/-- The addresses stored to when the operand is written. -/
def RM8.bytes (s : State) : RM8 → List Nat
  | .reg _ => []
  | .mem m => [phys (s.seg (s.segOf m)) (s.ea m)]

def RM16.bytes (s : State) : RM16 → List Nat
  | .reg _ => []
  | .mem m => s.wordBytes (s.segOf m) (s.ea m)

/-- In `t` the byte operand `d`, its address taken in `s`, holds `v`; of a register, the other half is as before. -/
def State.holds8 (s t : State) (d : RM8) (v : Byte) : Prop :=
  match d with
  | .reg r => t.reg8 r = v ∧ ∀ q, q ≠ r → t.reg8 q = s.reg8 q
  | .mem m => t.mem.read (phys (s.seg (s.segOf m)) (s.ea m)) = v

/-- In `t` the word operand `d`, its address taken in `s`, holds `v`. -/
def State.holds16 (s t : State) (d : RM16) (v : Word) : Prop :=
  match d with
  | .reg r => t.reg r = v
  | .mem m => t.mem.read16 (s.seg (s.segOf m)) (s.ea m) = v

/-- `d` got the value `v`, and nothing else but the flags, IP, the bus record, the queue and the draws changed. -/
def State.puts8 (s t : State) (d : RM8) (v : Byte) : Prop :=
  s.holds8 t d v ∧ s.keeps t (RM8.registers d) [] (RM8.bytes s d)

def State.puts16 (s t : State) (d : RM16) (v : Word) : Prop :=
  s.holds16 t d v ∧ s.keeps t (RM16.registers d) [] (RM16.bytes s d)

/-! ### Operands of the forms -/

/-- The destination of a two-operand form with the values of its two operands. -/
inductive Operands where
  | byte (d : RM8) (a b : Byte)
  | word (d : RM16) (a b : Word)
deriving DecidableEq, Repr

/-- 40_arithmetic.md R120; an `immed8` with a word destination is sign-extended (30_encoding.md R93). -/
def AluForm.operands (f : AluForm) (s : State) : Operands :=
  match f with
  | .rmReg8 rm r => .byte rm (s.readRM8 rm) (s.reg8 r)
  | .rmReg16 rm r => .word rm (s.readRM16 rm) (s.reg r)
  | .regRm8 r rm => .byte (.reg r) (s.reg8 r) (s.readRM8 rm)
  | .regRm16 r rm => .word (.reg r) (s.reg r) (s.readRM16 rm)
  | .al imm => .byte (.reg .al) (s.reg8 .al) imm
  | .ax imm => .word (.reg .ax) (s.reg .ax) imm
  | .rmImm8 rm imm => .byte rm (s.readRM8 rm) imm
  | .rmImm16 rm imm => .word rm (s.readRM16 rm) imm
  | .rmImm8Alias rm imm => .byte rm (s.readRM8 rm) imm
  | .rmImmSx rm imm => .word rm (s.readRM16 rm) (imm.signExtend 16)

/-- 41_logic_shift.md R164. -/
def TestForm.operands (f : TestForm) (s : State) : Operands :=
  match f with
  | .rmReg8 rm r => .byte rm (s.readRM8 rm) (s.reg8 r)
  | .rmReg16 rm r => .word rm (s.readRM16 rm) (s.reg r)
  | .al imm => .byte (.reg .al) (s.reg8 .al) imm
  | .ax imm => .word (.reg .ax) (s.reg .ax) imm
  | .rmImm8 rm imm => .byte rm (s.readRM8 rm) imm
  | .rmImm16 rm imm => .word rm (s.readRM16 rm) imm

/-- A destination with its value. -/
inductive Operand where
  | byte (d : RM8) (a : Byte)
  | word (d : RM16) (a : Word)
deriving DecidableEq, Repr

def UnaryForm.operand (f : UnaryForm) (s : State) : Operand :=
  match f with
  | .rm8 rm => .byte rm (s.readRM8 rm)
  | .rm16 rm => .word rm (s.readRM16 rm)

/-- 40_arithmetic.md R132, R137. -/
def IncForm.operand (f : IncForm) (s : State) : Operand :=
  match f with
  | .reg16 r => .word (.reg r) (s.reg r)
  | .rm8 rm => .byte rm (s.readRM8 rm)
  | .rm16 rm => .word rm (s.readRM16 rm)

def ShiftForm.operand (f : ShiftForm) (s : State) : Operand :=
  match f with
  | .rm8 rm _ => .byte rm (s.readRM8 rm)
  | .rm16 rm _ => .word rm (s.readRM16 rm)

/-- The count of a shift form. -/
def ShiftForm.count : ShiftForm → Count
  | .rm8 _ c => c
  | .rm16 _ c => c

/-- The destination and the value MOV moves (45_data_transfer.md R307). -/
def MovForm.moved (f : MovForm) (s : State) : Operand :=
  match f with
  | .rmReg8 rm r => .byte rm (s.reg8 r)
  | .rmReg16 rm r => .word rm (s.reg r)
  | .regRm8 r rm => .byte (.reg r) (s.readRM8 rm)
  | .regRm16 r rm => .word (.reg r) (s.readRM16 rm)
  | .alMem o => .byte (.reg .al) (s.readMem8 (.direct o))
  | .axMem o => .word (.reg .ax) (s.readMem16 (.direct o))
  | .memAl o => .byte (.mem (.direct o)) (s.reg8 .al)
  | .memAx o => .word (.mem (.direct o)) (s.reg .ax)
  | .regImm8 r imm => .byte (.reg r) imm
  | .regImm16 r imm => .word (.reg r) imm
  | .rmImm8 rm imm => .byte rm imm
  | .rmImm16 rm imm => .word rm imm

/-! ### Flags, as Table C-3 words them (10_state.md R27, 00_scope.md R11) -/

/-- The low-order 8 bits hold an even number of 1 bits. -/
def evenParity {w : Nat} (r : BitVec w) : Bool := (List.range 8).countP (fun i => r.getLsbD i) % 2 == 0

/-- SF, ZF and PF tell of the result `r`. -/
def Flags.tellsResult {w : Nat} (g : Flags) (r : BitVec w) : Prop :=
  g.SF = r.msb ∧ g.ZF = (r == 0) ∧ g.PF = evenParity r

/-- The flags after `a + b + c`: the carries out of the high-order bit and of the low four bits; OF when both operands have
one sign and the result the other. -/
def Flags.afterAdd {w : Nat} (f g : Flags) (a b : BitVec w) (c : Bool) : Prop :=
  let r := a + b + BitVec.ofNat w (bitNat c)
  g.CF = decide (2 ^ w ≤ a.toNat + b.toNat + bitNat c) ∧ g.AF = decide (16 ≤ a.toNat % 16 + b.toNat % 16 + bitNat c) ∧
    g.OF = (a.msb == b.msb && r.msb != a.msb) ∧ g.tellsResult r ∧ f.keepsControl g

/-- The flags after `a - b - c`: the borrows; OF when the operands' signs differ and the result's is not that of `a`. -/
def Flags.afterSub {w : Nat} (f g : Flags) (a b : BitVec w) (c : Bool) : Prop :=
  let r := a - b - BitVec.ofNat w (bitNat c)
  g.CF = decide (a.toNat < b.toNat + bitNat c) ∧ g.AF = decide (a.toNat % 16 < b.toNat % 16 + bitNat c) ∧
    g.OF = (a.msb != b.msb && r.msb != a.msb) ∧ g.tellsResult r ∧ f.keepsControl g

/-- The flags after a bitwise operation; AF is open (00_scope.md R11). -/
def Flags.afterLogic {w : Nat} (f g : Flags) (r : BitVec w) : Prop :=
  g.CF = false ∧ g.OF = false ∧ g.tellsResult r ∧ f.keepsControl g

/-- The flags after adding 1, CF kept: AF when the low four bits were all ones, OF when the operand was the largest signed
value (40_arithmetic.md R137). -/
def Flags.afterInc {w : Nat} (f g : Flags) (a : BitVec w) : Prop :=
  g.CF = f.CF ∧ g.AF = decide (a.toNat % 16 = 15) ∧ g.OF = decide (a.toNat = 2 ^ (w - 1) - 1) ∧ g.tellsResult (a + 1) ∧
    f.keepsControl g

/-- The flags after subtracting 1, CF kept: AF when the low four bits were all zeros, OF when the operand was the smallest
signed value (40_arithmetic.md R132). -/
def Flags.afterDec {w : Nat} (f g : Flags) (a : BitVec w) : Prop :=
  g.CF = f.CF ∧ g.AF = decide (a.toNat % 16 = 0) ∧ g.OF = decide (a.toNat = 2 ^ (w - 1)) ∧ g.tellsResult (a - 1) ∧
    f.keepsControl g

/-- The flags after NEG (40_arithmetic.md R139). -/
def Flags.afterNeg {w : Nat} (f g : Flags) (a : BitVec w) : Prop :=
  g.CF = decide (a.toNat ≠ 0) ∧ g.AF = decide (a.toNat % 16 ≠ 0) ∧ g.OF = decide (a.toNat = 2 ^ (w - 1)) ∧
    g.tellsResult (-a) ∧ f.keepsControl g

/-- The flags after a rotate by `n`: CF is `cf` (as before for `n` = 0), OF is `o` for `n` = 1 and else open, the rest as
before (41_logic_shift.md R166 to R170). -/
def Flags.afterRotate (f g : Flags) (n : Nat) (cf o : Bool) : Prop :=
  g.CF = (if n = 0 then f.CF else cf) ∧ (n = 1 → g.OF = o) ∧ g.AF = f.AF ∧ g.PF = f.PF ∧ g.SF = f.SF ∧ g.ZF = f.ZF ∧
    f.keepsControl g

/-- The flags after a shift by `n` with result `r`: as for a rotate, but SF, ZF and PF tell of `r` unless `n` = 0, and AF is
open (41_logic_shift.md R166, R171 to R173). -/
def Flags.afterShift {w : Nat} (f g : Flags) (n : Nat) (r : BitVec w) (cf : Bool) : Prop :=
  g.CF = (if n = 0 then f.CF else cf) ∧ (n ≠ 0 → g.tellsResult r) ∧ f.keepsControl g

/-! ### Requests at a boundary (60_exceptions.md R353) -/

/-- The external request a boundary takes: its type, and the lines once it is taken. -/
def State.request (s : State) : Option (Byte × Lines) :=
  if s.segInhibit then none
  else if s.lines.nmi then some (2, { s.lines with nmi := false })
  else
    match s.lines.intr with
    | some t => if s.flags.IF && !s.stiShadow then some (t, { s.lines with intr := none }) else none
    | none => none

/-! ### The interrupt sequence (60_exceptions.md R340) -/

/-- Memory after FLAGS and CS have been pushed, and after the return offset has been pushed too. -/
def State.memTwoPushed (s : State) (pushed : Flags) : Memory :=
  (s.mem.write16 s.segs.ss (s.regs.sp - 2) pushed.toWord).write16 s.segs.ss (s.regs.sp - 4) s.segs.cs

def State.memThreePushed (s : State) (pushed : Flags) (ret : Word) : Memory :=
  (s.memTwoPushed pushed).write16 s.segs.ss (s.regs.sp - 6) ret

/-- The addresses of the six bytes an interrupt pushes. -/
def State.frameBytes (s : State) : List Nat :=
  s.wordBytes .ss (s.regs.sp - 2) ++ s.wordBytes .ss (s.regs.sp - 4) ++ s.wordBytes .ss (s.regs.sp - 6)

/-- `t` is what the interrupt sequence of type `ty` makes of `s`, with the flags `pushed` and the offset `ret` saved and the
registers `open` left open: the three words lie on the stack, CS and IP come from the pointer at absolute 4 x `ty` (each read
when its turn comes), IF and TF are clear, the halt and wait states left, the prefetch queue empty (20_memory.md R72), and
nothing else has changed. -/
def State.entered (s t : State) (ty : Byte) (pushed : Flags) (ret : Word) (opened : List Reg16) : Prop :=
  t.reg .sp = s.reg .sp - 6 ∧ t.mem.read16 (s.seg .ss) (s.reg .sp - 2) = pushed.toWord ∧
    t.mem.read16 (s.seg .ss) (s.reg .sp - 4) = s.seg .cs ∧ t.mem.read16 (s.seg .ss) (s.reg .sp - 6) = ret ∧
    t.seg .cs = (s.memTwoPushed pushed).readAbs16 (4 * ty.toNat + 2) ∧
    t.ip = (s.memThreePushed pushed ret).readAbs16 (4 * ty.toNat) ∧
    t.flags = { pushed with IF := false, TF := false } ∧ t.halted = false ∧ t.waiting = false ∧ t.bus = s.bus ∧
    t.queue = [] ∧ { s with halted := false, waiting := false }.keeps t (.sp :: opened) [.cs] s.frameBytes

end Sys2Proof.Machine
end

