-- ==== Sys2Proof/Certificates/Slice0/Obligations.lean ====
section
/-! DEFINITION. The statements for the provers. In a statement about an instruction, `exec i s` is its meaning on the state
`s` in which `s.ip` is already the offset of the next instruction (00_scope.md R15). -/

section

open Sys2Proof Sys2Proof.Machine

/-! ### The machine as a whole -/

/-- 10_state.md R33, 70_reset_and_hazards.md R380: what reset leaves, and that the first fetch is at physical FFFF0H. These
are the values the rules show for `RESET_STATE`, from general knowledge (log 8). -/
def Obligations.ResetStateValues : Prop :=
  State.reset.seg .cs = 0xFFFF ∧ State.reset.ip = 0 ∧ State.reset.seg .ds = 0 ∧ State.reset.seg .es = 0 ∧
    State.reset.seg .ss = 0 ∧ State.reset.flags = {} ∧ State.reset.halted = false ∧ State.reset.waiting = false ∧
    State.reset.stiShadow = false ∧ State.reset.segInhibit = false ∧ State.reset.trapArmed = false ∧
    State.reset.pre = {} ∧ phys (State.reset.seg .cs) State.reset.ip = 0xFFFF0

/-- The state after reset meets the invariant of `StepKeepsConsistent`. -/
def Obligations.ResetIsConsistent : Prop := State.reset.consistent = true

/-- From every consistent state, reached or not, a step leads to a consistent state: memory keeps its canonical form, a prefix
is in force only inside its instruction (10_state.md R32), the halt and wait states stay exclusive, the prefetch queue
coherent; and program text is fixed for the run, and no step stores into a byte of it, or into one executed before
(20_memory.md R72; log 22). -/
def Obligations.StepKeepsConsistent : Prop :=
  ∀ s t : State, s.consistent = true → step s = .next t →
    t.consistent = true ∧ t.text = s.text ∧
      ∀ a, s.mayExecute a = true → (a ∈ t.stored → a ∈ s.stored) ∧ t.mem.read a = s.mem.read a

/-- 20_memory.md R51, R52: the physical address is 16 times the segment register's value plus the offset, modulo 2^20; of a
stored word the low byte is at the offset and the high byte at the next one; reading gives the word back; no other byte
changes. At offset FFFFH the high byte's place is the parameter `WORD_AT_FFFF` (log 4). -/
def Obligations.WordsAreLittleEndian : Prop :=
  ∀ (m : Memory) (b o v : Word),
    phys b o = (16 * b.toNat + o.toNat) % 2 ^ 20 ∧ (m.write16 b o v).read16 b o = v ∧
      (m.write16 b o v).read (phys b o) = v.lo ∧
      (m.write16 b o v).read (physHigh b o) = v.hi ∧ (o ≠ 0xFFFF → physHigh b o = phys b (o + 1)) ∧
      ∀ a, a ≠ phys b o → a ≠ physHigh b o → (m.write16 b o v).read a = m.read a

/-- 60_exceptions.md R362: outside RESET, the halt and the wait state, when the bytes at CS:IP decode to an instruction, none
of them was stored to in this run (20_memory.md R72, log 22), its prefixes may stand before it (log 21) and no request comes
before it as a repetition (44_string.md R291), a step runs that instruction: on the state in which IP is past it, `this_ip` is
its first prefix byte, `trap_armed` has sampled TF, its bytes are executed, and `sti_shadow` and `seg_inhibit` are over;
and after a prefix comes the next byte at once (a prefix is a step of its own: the model's choice, log 1), after anything else
the end of the instruction. A step that stores into program text has no meaning (R72, log 22). -/
def Obligations.StepRunsDecodedInstruction : Prop :=
  ∀ (s : State) (i : Instr) (rest : Bytes),
    let n := maxInstrBytes - rest.length
    s.lines.reset = false → s.halted = false → s.waiting = false → decode s.fetchBytes = .ok (i, rest) →
    s.storedFrom s.ip n = false → s.prefixRefusal i = none → s.repetitionInterrupted i = false →
    ∃ s0 : State,
      s0.ip = s.ip + BitVec.ofNat 16 n ∧ s0.thisIp = (if s.pre.active then s.thisIp else s.ip) ∧
      s0.trapArmed = s.flags.TF ∧ (Instr.isPrefix i = false → s0.stiShadow = false ∧ s0.segInhibit = false) ∧
      s0.regs = s.regs ∧ s0.segs = s.segs ∧ s0.flags = s.flags ∧ s0.mem = s.mem ∧ s0.pre = s.pre ∧ s0.lines = s.lines ∧
      s0.bus = s.bus ∧ s0.halted = false ∧ s0.waiting = false ∧ s0.stored = s.stored ∧
      s0.text = s.text ∧ (∀ a, a ∈ s0.executed ↔ a ∈ s.codeAddrs s.ip n ∨ a ∈ s.executed) ∧
      step s =
        match exec i s0 with
        | .next t =>
          let u := if Instr.isPrefix i then t else s.endInstr t
          if s.storesIntoText u then .refused .storeIntoProgramText else .next u
        | .fault f => .fault f
        | .refused r => .refused r

/-- Some instructions written out byte by byte as 95_test_vectors.md 2.1 shows them. -/
def Obligations.DecodesSpecWords : Prop :=
  decode [0x90] = .ok (.nop, []) ∧
  decode [0x01, 0xC8] = .ok (.add (.rmReg16 (.reg .ax) .cx), []) ∧
  decode [0x8B, 0x46, 0xFE] = .ok (.mov (.regRm16 .ax (.mem (.indexed .bp (.d8 0xFE)))), []) ∧
  decode [0x8B, 0x06, 0x34, 0x12] = .ok (.mov (.regRm16 .ax (.mem (.direct 0x1234))), []) ∧
  decode [0x81, 0x06, 0x00, 0x10, 0x34, 0x12] = .ok (.add (.rmImm16 (.mem (.direct 0x1000)) 0x1234), []) ∧
  decode [0x83, 0xC3, 0xFF] = .ok (.add (.rmImmSx (.reg .bx) 0xFF), []) ∧
  decode [0xD3, 0xE0] = .ok (.shl (.rm16 (.reg .ax) .cl), []) ∧
  decode [0xF6, 0xF3] = .ok (.div (.rm8 (.reg .bl)), []) ∧
  decode [0xFF, 0x27] = .ok (.jmpNearInd (.mem (.indexed .bx .none)), []) ∧
  decode [0x9A, 0x00, 0x02, 0x00, 0x30] = .ok (.callFar 0x0200 0x3000, []) ∧
  decode [0xC8, 0x04, 0x00, 0x01] = .ok (.enter 4 1, []) ∧
  decode [0xF2, 0xAE] = .ok (.repne, [0xAE]) ∧ decode [0xAE] = .ok (.scas .byte, []) ∧
  decode [0x0F] = .error (.undefinedOpcode 0x0F) ∧ decode [0x8D, 0xC0] = .error (.registerOperand 0x8D)

/-- Decoding the encoding of a well-formed instruction, whatever bytes follow it, gives the instruction and those bytes. -/
def Obligations.DecodeOfEncode : Prop :=
  ∀ (i : Instr) (rest : Bytes), i.wellFormed = true → decode (encode i ++ rest) = .ok (i, rest)

/-- Bytes that decode are the encoding of the instruction read, which is well-formed: no two encodings share a term, and no
bit of an encoding is dropped. -/
def Obligations.EncodeOfDecode : Prop :=
  ∀ (bytes : Bytes) (i : Instr) (rest : Bytes),
    decode bytes = .ok (i, rest) → i.wellFormed = true ∧ bytes = encode i ++ rest

/-! ### Arithmetic -/

/-- 40_arithmetic.md R125, R126: in every form the destination gets the sum (with CF for ADC), the six status flags tell of
it, and nothing else changes. -/
def Obligations.AddAndAdcResults : Prop :=
  ∀ (f : AluForm) (s : State), ∀ p ∈ [(Instr.add f, false), (Instr.adc f, s.flags.CF)],
    match AluForm.operands f s with
    | .byte d a b =>
      ∃ t, exec p.1 s = .next t ∧ s.puts8 t d (a + b + BitVec.ofNat 8 (bitNat p.2)) ∧
        s.flags.afterAdd t.flags a b p.2 ∧ s.goesOn t
    | .word d a b =>
      ∃ t, exec p.1 s = .next t ∧ s.puts16 t d (a + b + BitVec.ofNat 16 (bitNat p.2)) ∧
        s.flags.afterAdd t.flags a b p.2 ∧ s.goesOn t

/-- 40_arithmetic.md R140, R141: the same for the difference (with CF for SBB). -/
def Obligations.SubAndSbbResults : Prop :=
  ∀ (f : AluForm) (s : State), ∀ p ∈ [(Instr.sub f, false), (Instr.sbb f, s.flags.CF)],
    match AluForm.operands f s with
    | .byte d a b =>
      ∃ t, exec p.1 s = .next t ∧ s.puts8 t d (a - b - BitVec.ofNat 8 (bitNat p.2)) ∧
        s.flags.afterSub t.flags a b p.2 ∧ s.goesOn t
    | .word d a b =>
      ∃ t, exec p.1 s = .next t ∧ s.puts16 t d (a - b - BitVec.ofNat 16 (bitNat p.2)) ∧
        s.flags.afterSub t.flags a b p.2 ∧ s.goesOn t

/-- 40_arithmetic.md R128: CMP sets the flags of the difference and changes nothing else. -/
def Obligations.CmpSetsFlagsOnly : Prop :=
  ∀ (f : AluForm) (s : State),
    ∃ t, exec (.cmp f) s = .next t ∧ s.keeps t [] [] [] ∧ s.goesOn t ∧
      match AluForm.operands f s with
      | .byte _ a b => s.flags.afterSub t.flags a b false
      | .word _ a b => s.flags.afterSub t.flags a b false

/-- 40_arithmetic.md R132, R137: INC and DEC, CF kept. -/
def Obligations.IncAndDecResults : Prop :=
  ∀ (f : IncForm) (s : State),
    match IncForm.operand f s with
    | .byte d a =>
      (∃ t, exec (.inc f) s = .next t ∧ s.puts8 t d (a + 1) ∧ s.flags.afterInc t.flags a ∧ s.goesOn t) ∧
        ∃ t, exec (.dec f) s = .next t ∧ s.puts8 t d (a - 1) ∧ s.flags.afterDec t.flags a ∧ s.goesOn t
    | .word d a =>
      (∃ t, exec (.inc f) s = .next t ∧ s.puts16 t d (a + 1) ∧ s.flags.afterInc t.flags a ∧ s.goesOn t) ∧
        ∃ t, exec (.dec f) s = .next t ∧ s.puts16 t d (a - 1) ∧ s.flags.afterDec t.flags a ∧ s.goesOn t

/-- 40_arithmetic.md R139: NEG. -/
def Obligations.NegResult : Prop :=
  ∀ (f : UnaryForm) (s : State),
    match UnaryForm.operand f s with
    | .byte d a => ∃ t, exec (.neg f) s = .next t ∧ s.puts8 t d (-a) ∧ s.flags.afterNeg t.flags a ∧ s.goesOn t
    | .word d a => ∃ t, exec (.neg f) s = .next t ∧ s.puts16 t d (-a) ∧ s.flags.afterNeg t.flags a ∧ s.goesOn t

/-- 40_arithmetic.md R121, R124: AAA and AAS adjust AL and AH separately; OF, PF, SF and ZF are open. -/
def Obligations.AsciiAdjustResults : Prop :=
  ∀ s : State,
    let adjust := decide (9 < (s.reg8 .al).toNat % 16) || s.flags.AF
    (∃ t, exec .aaa s = .next t ∧ t.reg8 .al = (if adjust then s.reg8 .al + 6 else s.reg8 .al) &&& 0x0F ∧
        t.reg8 .ah = (if adjust then s.reg8 .ah + 1 else s.reg8 .ah) ∧ t.flags.AF = adjust ∧ t.flags.CF = adjust ∧
        s.flags.keepsControl t.flags ∧ s.keeps t [.ax] [] [] ∧ s.goesOn t) ∧
      ∃ t, exec .aas s = .next t ∧ t.reg8 .al = (if adjust then s.reg8 .al - 6 else s.reg8 .al) &&& 0x0F ∧
        t.reg8 .ah = (if adjust then s.reg8 .ah - 1 else s.reg8 .ah) ∧ t.flags.AF = adjust ∧ t.flags.CF = adjust ∧
        s.flags.keepsControl t.flags ∧ s.keeps t [.ax] [] [] ∧ s.goesOn t

/-- 40_arithmetic.md R122, R123: AAM splits AL into two decimal digits, AAD joins AH and AL; SF, ZF and PF tell of the new AL
(from general knowledge, log 32); AF, CF and OF are open. -/
def Obligations.AamAndAadResults : Prop :=
  ∀ s : State,
    (∃ t, exec .aam s = .next t ∧ (t.reg8 .ah).toNat * 10 + (t.reg8 .al).toNat = (s.reg8 .al).toNat ∧
        (t.reg8 .al).toNat < 10 ∧ t.flags.tellsResult (t.reg8 .al) ∧ s.flags.keepsControl t.flags ∧
        s.keeps t [.ax] [] [] ∧ s.goesOn t) ∧
      ∃ t, exec .aad s = .next t ∧ (t.reg8 .al).toNat = ((s.reg8 .ah).toNat * 10 + (s.reg8 .al).toNat) % 256 ∧
        t.reg8 .ah = 0 ∧ t.flags.tellsResult (t.reg8 .al) ∧ s.flags.keepsControl t.flags ∧ s.keeps t [.ax] [] [] ∧
        s.goesOn t

/-- 40_arithmetic.md R130, R131: DAA and DAS in closed form: 6 for the low digit, 60H for the high one when AL was above 99H
or CF was set. DAS on the 24 entry states of 92_eei_decisions.md D39 leaves AL, CF, PF, SF and ZF open (log 33). -/
def Obligations.DecimalAdjustResults : Prop :=
  ∀ s : State,
    let al := s.reg8 .al
    let low := decide (9 < al.toNat % 16) || s.flags.AF
    let high := decide (0x99 < al.toNat) || s.flags.CF
    (∃ t, exec .daa s = .next t ∧ t.reg8 .al = al + (if low then 6 else 0) + (if high then 0x60 else 0) ∧
        t.reg8 .ah = s.reg8 .ah ∧ t.flags.AF = low ∧ t.flags.CF = high ∧ t.flags.tellsResult (t.reg8 .al) ∧
        s.flags.keepsControl t.flags ∧ s.keeps t [.ax] [] [] ∧ s.goesOn t) ∧
      ∃ t, exec .das s = .next t ∧ t.reg8 .ah = s.reg8 .ah ∧ t.flags.AF = low ∧ s.flags.keepsControl t.flags ∧
        s.keeps t [.ax] [] [] ∧ s.goesOn t ∧
        (dasIsFree al s.flags.AF s.flags.CF = false →
          t.reg8 .al = al - (if low then 6 else 0) - (if high then 0x60 else 0) ∧ t.flags.CF = high ∧
            t.flags.tellsResult (t.reg8 .al))

/-- Two decimal digits in one byte (00_scope.md R17). -/
def packedDecimal (n : Nat) : Byte := BitVec.ofNat 8 (n / 10 * 16 + n % 10)

/-- 40_arithmetic.md R130, R131, 90_conflicts.md C23: for every two packed decimal operands and carry, ADC then DAA leaves the
packed sum and its carry, SBB then DAS the packed difference and its borrow. -/
def Obligations.PackedDecimalArithmetic : Prop :=
  ∀ (s : State) (x y : Nat), x < 100 → y < 100 → s.reg8 .al = packedDecimal x →
    (∃ t u, exec (.adc (.al (packedDecimal y))) s = .next t ∧ exec .daa t = .next u ∧
        u.reg8 .al = packedDecimal ((x + y + bitNat s.flags.CF) % 100) ∧
        u.flags.CF = decide (100 ≤ x + y + bitNat s.flags.CF)) ∧
      ∃ t u, exec (.sbb (.al (packedDecimal y))) s = .next t ∧ exec .das t = .next u ∧
        u.reg8 .al = packedDecimal ((x + 100 - y - bitNat s.flags.CF) % 100) ∧
        u.flags.CF = decide (x < y + bitNat s.flags.CF)

/-- 40_arithmetic.md R127, R129, with their encodings: CBW extends AL through AH and CWD extends AX through DX, the signed
value kept, no flag changed. -/
def Obligations.CbwAndCwdExtendSigns : Prop :=
  ∀ (s : State) (rest : Bytes),
    decode (0x98 :: rest) = .ok (.cbw, rest) ∧ decode (0x99 :: rest) = .ok (.cwd, rest) ∧
      (∃ t, exec .cbw s = .next t ∧ (t.reg .ax).toInt = (s.reg8 .al).toInt ∧
        t.reg8 .ah = (if (s.reg8 .al).toNat < 0x80 then 0x00 else 0xFF) ∧ t.reg8 .al = s.reg8 .al ∧
        t.flags = s.flags ∧ s.keeps t [.ax] [] [] ∧ s.goesOn t) ∧
      ∃ t, exec .cwd s = .next t ∧ (t.reg .dx ++ t.reg .ax).toInt = (s.reg .ax).toInt ∧
        t.reg .dx = (if (s.reg .ax).toNat < 0x8000 then 0x0000 else 0xFFFF) ∧ t.flags = s.flags ∧
        s.keeps t [.dx] [] [] ∧ s.goesOn t

/-- 40_arithmetic.md R138: MUL leaves the exact unsigned product; CF and OF tell whether its upper half is not zero; AF, PF,
SF and ZF are open. -/
def Obligations.MulResult : Prop :=
  ∀ (f : UnaryForm) (s : State),
    match UnaryForm.operand f s with
    | .byte _ a =>
      ∃ t, exec (.mul f) s = .next t ∧ (t.reg .ax).toNat = (s.reg8 .al).toNat * a.toNat ∧
        t.flags.CF = decide (t.reg8 .ah ≠ 0) ∧ t.flags.OF = decide (t.reg8 .ah ≠ 0) ∧ s.flags.keepsControl t.flags ∧
        s.keeps t [.ax] [] [] ∧ s.goesOn t
    | .word _ a =>
      ∃ t, exec (.mul f) s = .next t ∧ (t.reg .dx ++ t.reg .ax).toNat = (s.reg .ax).toNat * a.toNat ∧
        t.flags.CF = decide (t.reg .dx ≠ 0) ∧ t.flags.OF = decide (t.reg .dx ≠ 0) ∧ s.flags.keepsControl t.flags ∧
        s.keeps t [.ax, .dx] [] [] ∧ s.goesOn t

/-- 40_arithmetic.md R135: one-operand IMUL leaves the exact signed product; CF and OF tell whether its lower half alone does
not give it; AF, PF, SF and ZF are open. -/
def Obligations.ImulResult : Prop :=
  ∀ (f : UnaryForm) (s : State),
    match UnaryForm.operand f s with
    | .byte _ a =>
      ∃ t, exec (.imul f) s = .next t ∧ (t.reg .ax).toInt = (s.reg8 .al).toInt * a.toInt ∧
        t.flags.CF = decide ((t.reg8 .al).toInt ≠ (s.reg8 .al).toInt * a.toInt) ∧ t.flags.OF = t.flags.CF ∧
        s.flags.keepsControl t.flags ∧ s.keeps t [.ax] [] [] ∧ s.goesOn t
    | .word _ a =>
      ∃ t, exec (.imul f) s = .next t ∧ (t.reg .dx ++ t.reg .ax).toInt = (s.reg .ax).toInt * a.toInt ∧
        t.flags.CF = decide ((t.reg .ax).toInt ≠ (s.reg .ax).toInt * a.toInt) ∧ t.flags.OF = t.flags.CF ∧
        s.flags.keepsControl t.flags ∧ s.keeps t [.ax, .dx] [] [] ∧ s.goesOn t

/-- 40_arithmetic.md R136 (general knowledge, log 31): IMUL with an immediate leaves the low 16 bits of the product in the
named register; CF and OF tell whether they are not the product. -/
def Obligations.ImulImmediateResult : Prop :=
  ∀ (r : Reg16) (rm : RM16) (iw : Word) (ib : Byte) (s : State),
    ∀ p ∈ [(Instr.imulImm16 r rm iw, iw.toInt), (Instr.imulImm8 r rm ib, ib.toInt)],
      ∃ t, exec p.1 s = .next t ∧ t.reg r = BitVec.ofInt 16 ((s.readRM16 rm).toInt * p.2) ∧
        t.flags.CF = decide ((t.reg r).toInt ≠ (s.readRM16 rm).toInt * p.2) ∧ t.flags.OF = t.flags.CF ∧
        s.flags.keepsControl t.flags ∧ s.keeps t [r] [] [] ∧ s.goesOn t

/-- 40_arithmetic.md R133, R134: a division whose quotient fits completes with the quotient and the remainder; the signed
remainder has the dividend's sign; the six status flags are open. -/
def Obligations.DivisionResults : Prop :=
  ∀ (rm8 : RM8) (rm16 : RM16) (s : State),
    ((s.readRM8 rm8).toNat ≠ 0 → s.regs.ax.toNat / (s.readRM8 rm8).toNat ≤ 0xFF →
      ∃ t, exec (.div (.rm8 rm8)) s = .next t ∧ (t.reg8 .ah).toNat < (s.readRM8 rm8).toNat ∧
        (t.reg8 .al).toNat * (s.readRM8 rm8).toNat + (t.reg8 .ah).toNat = s.regs.ax.toNat ∧
        s.flags.keepsControl t.flags ∧ s.keeps t [.ax] [] [] ∧ s.goesOn t) ∧
    ((s.readRM16 rm16).toNat ≠ 0 → (s.regs.dx ++ s.regs.ax).toNat / (s.readRM16 rm16).toNat ≤ 0xFFFF →
      ∃ t, exec (.div (.rm16 rm16)) s = .next t ∧ (t.reg .dx).toNat < (s.readRM16 rm16).toNat ∧
        (t.reg .ax).toNat * (s.readRM16 rm16).toNat + (t.reg .dx).toNat = (s.regs.dx ++ s.regs.ax).toNat ∧
        s.flags.keepsControl t.flags ∧ s.keeps t [.ax, .dx] [] [] ∧ s.goesOn t) ∧
    ((s.readRM8 rm8).toInt ≠ 0 → -127 ≤ s.regs.ax.toInt.tdiv (s.readRM8 rm8).toInt →
      s.regs.ax.toInt.tdiv (s.readRM8 rm8).toInt ≤ 127 →
      ∃ t, exec (.idiv (.rm8 rm8)) s = .next t ∧ (t.reg8 .ah).toInt.natAbs < (s.readRM8 rm8).toInt.natAbs ∧
        (t.reg8 .al).toInt * (s.readRM8 rm8).toInt + (t.reg8 .ah).toInt = s.regs.ax.toInt ∧
        (t.reg8 .ah = 0 ∨ ((t.reg8 .ah).toInt < 0 ↔ s.regs.ax.toInt < 0)) ∧
        s.flags.keepsControl t.flags ∧ s.keeps t [.ax] [] [] ∧ s.goesOn t) ∧
    ((s.readRM16 rm16).toInt ≠ 0 → -32767 ≤ (s.regs.dx ++ s.regs.ax).toInt.tdiv (s.readRM16 rm16).toInt →
      (s.regs.dx ++ s.regs.ax).toInt.tdiv (s.readRM16 rm16).toInt ≤ 32767 →
      ∃ t, exec (.idiv (.rm16 rm16)) s = .next t ∧ (t.reg .dx).toInt.natAbs < (s.readRM16 rm16).toInt.natAbs ∧
        (t.reg .ax).toInt * (s.readRM16 rm16).toInt + (t.reg .dx).toInt = (s.regs.dx ++ s.regs.ax).toInt ∧
        (t.reg .dx = 0 ∨ ((t.reg .dx).toInt < 0 ↔ (s.regs.dx ++ s.regs.ax).toInt < 0)) ∧
        s.flags.keepsControl t.flags ∧ s.keeps t [.ax, .dx] [] [] ∧ s.goesOn t)

/-- 60_exceptions.md R344: a division by zero or with a quotient that does not fit enters interrupt type 0; the quotient and
remainder registers and the six status flags pushed are open; the offset saved is this instruction's or the next one's
(`FAULT_RETURN_IP`, log 14). A signed quotient of exactly -128 or -32768 does so or completes, as `IDIV_MIN_QUOTIENT_TRAPS`
has it (log 15). -/
def Obligations.DivideErrorEntersTypeZero : Prop :=
  ∀ (rm8 : RM8) (rm16 : RM16) (s : State),
    (s.faultReturnIp = s.thisIp ∨ s.faultReturnIp = s.ip) ∧
    ((s.readRM8 rm8).toNat = 0 ∨ 0xFF < s.regs.ax.toNat / (s.readRM8 rm8).toNat →
      ∃ t p, exec (.div (.rm8 rm8)) s = .next t ∧ s.flags.keepsControl p ∧ s.entered t 0 p s.faultReturnIp [.ax]) ∧
    ((s.readRM16 rm16).toNat = 0 ∨ 0xFFFF < (s.regs.dx ++ s.regs.ax).toNat / (s.readRM16 rm16).toNat →
      ∃ t p, exec (.div (.rm16 rm16)) s = .next t ∧ s.flags.keepsControl p ∧
        s.entered t 0 p s.faultReturnIp [.ax, .dx]) ∧
    ((s.readRM8 rm8).toInt = 0 ∨ s.regs.ax.toInt.tdiv (s.readRM8 rm8).toInt < -128 ∨
        127 < s.regs.ax.toInt.tdiv (s.readRM8 rm8).toInt →
      ∃ t p, exec (.idiv (.rm8 rm8)) s = .next t ∧ s.flags.keepsControl p ∧ s.entered t 0 p s.faultReturnIp [.ax]) ∧
    ((s.readRM16 rm16).toInt = 0 ∨ (s.regs.dx ++ s.regs.ax).toInt.tdiv (s.readRM16 rm16).toInt < -32768 ∨
        32767 < (s.regs.dx ++ s.regs.ax).toInt.tdiv (s.readRM16 rm16).toInt →
      ∃ t p, exec (.idiv (.rm16 rm16)) s = .next t ∧ s.flags.keepsControl p ∧
        s.entered t 0 p s.faultReturnIp [.ax, .dx]) ∧
    ((s.readRM8 rm8).toInt ≠ 0 → s.regs.ax.toInt.tdiv (s.readRM8 rm8).toInt = -128 →
      ∃ t p, exec (.idiv (.rm8 rm8)) s = .next t ∧ s.flags.keepsControl p ∧
        if Config.idivMinQuotientTraps then s.entered t 0 p s.faultReturnIp [.ax]
        else (t.reg8 .al).toInt = -128 ∧ -128 * (s.readRM8 rm8).toInt + (t.reg8 .ah).toInt = s.regs.ax.toInt ∧
          t.flags = p ∧ s.keeps t [.ax] [] [] ∧ s.goesOn t) ∧
    ((s.readRM16 rm16).toInt ≠ 0 → (s.regs.dx ++ s.regs.ax).toInt.tdiv (s.readRM16 rm16).toInt = -32768 →
      ∃ t p, exec (.idiv (.rm16 rm16)) s = .next t ∧ s.flags.keepsControl p ∧
        if Config.idivMinQuotientTraps then s.entered t 0 p s.faultReturnIp [.ax, .dx]
        else (t.reg .ax).toInt = -32768 ∧
          -32768 * (s.readRM16 rm16).toInt + (t.reg .dx).toInt = (s.regs.dx ++ s.regs.ax).toInt ∧ t.flags = p ∧
          s.keeps t [.ax, .dx] [] [] ∧ s.goesOn t)

/-! ### Logic, shifts and rotates -/

/-- 41_logic_shift.md R160, R161, R163, R165: AND, OR and XOR in every form; AF is open. -/
def Obligations.AndOrXorResults : Prop :=
  ∀ (f : AluForm) (s : State),
    match AluForm.operands f s with
    | .byte d a b =>
      ∀ p ∈ [(Instr.and f, a &&& b), (Instr.or f, a ||| b), (Instr.xor f, a ^^^ b)],
        ∃ t, exec p.1 s = .next t ∧ s.puts8 t d p.2 ∧ s.flags.afterLogic t.flags p.2 ∧ s.goesOn t
    | .word d a b =>
      ∀ p ∈ [(Instr.and f, a &&& b), (Instr.or f, a ||| b), (Instr.xor f, a ^^^ b)],
        ∃ t, exec p.1 s = .next t ∧ s.puts16 t d p.2 ∧ s.flags.afterLogic t.flags p.2 ∧ s.goesOn t

/-- 41_logic_shift.md R162, R164: TEST sets the flags of the bitwise and, and changes nothing else; NOT inverts every bit and
changes no flag. -/
def Obligations.TestAndNotResults : Prop :=
  ∀ (g : TestForm) (f : UnaryForm) (s : State),
    (∃ t, exec (.test g) s = .next t ∧ s.keeps t [] [] [] ∧ s.goesOn t ∧
        match TestForm.operands g s with
        | .byte _ a b => s.flags.afterLogic t.flags (a &&& b)
        | .word _ a b => s.flags.afterLogic t.flags (a &&& b)) ∧
      match UnaryForm.operand f s with
      | .byte d a => ∃ t, exec (.not f) s = .next t ∧ s.puts8 t d (~~~a) ∧ t.flags = s.flags ∧ s.goesOn t
      | .word d a => ∃ t, exec (.not f) s = .next t ∧ s.puts16 t d (~~~a) ∧ t.flags = s.flags ∧ s.goesOn t

/-- 41_logic_shift.md R169, R170: ROL and ROR by any count rotate the operand; CF is the bit that came round last; OF is
defined for a count of 1 only; no other flag changes. What the number of turns is for a count above 31 is the model's choice
(`SHIFT_COUNT_MASK`, log 12). -/
def Obligations.RotateResults : Prop :=
  ∀ (f : ShiftForm) (s : State),
    let n := s.turns (ShiftForm.count f)
    match ShiftForm.operand f s with
    | .byte d a =>
      (∃ t, exec (.rol f) s = .next t ∧ s.puts8 t d (a.rotateLeft n) ∧ s.goesOn t ∧
        s.flags.afterRotate t.flags n ((a.rotateLeft n).getLsbD 0)
          ((a.rotateLeft n).msb != (a.rotateLeft n).getLsbD 0)) ∧
      ∃ t, exec (.ror f) s = .next t ∧ s.puts8 t d (a.rotateRight n) ∧ s.goesOn t ∧
        s.flags.afterRotate t.flags n (a.rotateRight n).msb ((a.rotateRight n).msb != (a.rotateRight n).getLsbD 6)
    | .word d a =>
      (∃ t, exec (.rol f) s = .next t ∧ s.puts16 t d (a.rotateLeft n) ∧ s.goesOn t ∧
        s.flags.afterRotate t.flags n ((a.rotateLeft n).getLsbD 0)
          ((a.rotateLeft n).msb != (a.rotateLeft n).getLsbD 0)) ∧
      ∃ t, exec (.ror f) s = .next t ∧ s.puts16 t d (a.rotateRight n) ∧ s.goesOn t ∧
        s.flags.afterRotate t.flags n (a.rotateRight n).msb ((a.rotateRight n).msb != (a.rotateRight n).getLsbD 14)

/-- 41_logic_shift.md R167, R168: RCL and RCR rotate the ring of N + 1 bits that CF and the operand form. What the number of
turns is for a count above 31 is the model's choice (`SHIFT_COUNT_MASK`, log 12). -/
def Obligations.RotateThroughCarryResults : Prop :=
  ∀ (f : ShiftForm) (s : State),
    let n := s.turns (ShiftForm.count f)
    match ShiftForm.operand f s with
    | .byte d a =>
      let left := (BitVec.cons s.flags.CF a).rotateLeft n
      let right := (BitVec.cons s.flags.CF a).rotateRight n
      (∃ t, exec (.rcl f) s = .next t ∧ s.puts8 t d (left.setWidth 8) ∧ s.goesOn t ∧
        s.flags.afterRotate t.flags n left.msb (left.getLsbD 7 != left.msb)) ∧
      ∃ t, exec (.rcr f) s = .next t ∧ s.puts8 t d (right.setWidth 8) ∧ s.goesOn t ∧
        s.flags.afterRotate t.flags n right.msb (right.getLsbD 7 != right.getLsbD 6)
    | .word d a =>
      let left := (BitVec.cons s.flags.CF a).rotateLeft n
      let right := (BitVec.cons s.flags.CF a).rotateRight n
      (∃ t, exec (.rcl f) s = .next t ∧ s.puts16 t d (left.setWidth 16) ∧ s.goesOn t ∧
        s.flags.afterRotate t.flags n left.msb (left.getLsbD 15 != left.msb)) ∧
      ∃ t, exec (.rcr f) s = .next t ∧ s.puts16 t d (right.setWidth 16) ∧ s.goesOn t ∧
        s.flags.afterRotate t.flags n right.msb (right.getLsbD 15 != right.getLsbD 14)

/-- 41_logic_shift.md R171, R172, R173: SHL, SAR and SHR by any count; CF is the bit shifted out last; OF for a count of 1 is
whether the sign changed (SAR: 0 for every count of 1 or more). The number of turns is 1, the immediate or CL; up to 31 as it
stands, above that as it stands or modulo 32 (R166; `SHIFT_COUNT_MASK`, log 12). -/
def Obligations.ShiftResults : Prop :=
  ∀ (f : ShiftForm) (s : State),
    (let c : Byte := match ShiftForm.count f with | .one => 1 | .imm n => n | .cl => s.reg8 .cl
      if c.toNat ≤ 31 then s.turns (ShiftForm.count f) = c.toNat
      else s.turns (ShiftForm.count f) = c.toNat ∨ s.turns (ShiftForm.count f) = c.toNat % 32) ∧
    let n := s.turns (ShiftForm.count f)
    match ShiftForm.operand f s with
    | .byte d a =>
      (∃ t, exec (.shl f) s = .next t ∧ s.puts8 t d (a <<< n) ∧ s.goesOn t ∧
        s.flags.afterShift t.flags n (a <<< n) (a <<< (n - 1)).msb ∧
        (n = 1 → t.flags.OF = (a.msb != (a <<< n).msb))) ∧
      (∃ t, exec (.shr f) s = .next t ∧ s.puts8 t d (a >>> n) ∧ s.goesOn t ∧
        s.flags.afterShift t.flags n (a >>> n) ((a >>> (n - 1)).getLsbD 0) ∧ (n = 1 → t.flags.OF = a.msb)) ∧
      ∃ t, exec (.sar f) s = .next t ∧ s.puts8 t d (a.sshiftRight n) ∧ s.goesOn t ∧
        s.flags.afterShift t.flags n (a.sshiftRight n) ((a.sshiftRight (n - 1)).getLsbD 0) ∧
        (n ≠ 0 → t.flags.OF = false)
    | .word d a =>
      (∃ t, exec (.shl f) s = .next t ∧ s.puts16 t d (a <<< n) ∧ s.goesOn t ∧
        s.flags.afterShift t.flags n (a <<< n) (a <<< (n - 1)).msb ∧
        (n = 1 → t.flags.OF = (a.msb != (a <<< n).msb))) ∧
      (∃ t, exec (.shr f) s = .next t ∧ s.puts16 t d (a >>> n) ∧ s.goesOn t ∧
        s.flags.afterShift t.flags n (a >>> n) ((a >>> (n - 1)).getLsbD 0) ∧ (n = 1 → t.flags.OF = a.msb)) ∧
      ∃ t, exec (.sar f) s = .next t ∧ s.puts16 t d (a.sshiftRight n) ∧ s.goesOn t ∧
        s.flags.afterShift t.flags n (a.sshiftRight n) ((a.sshiftRight (n - 1)).getLsbD 0) ∧
        (n ≠ 0 → t.flags.OF = false)

/-! ### Control transfer -/

/-- 42_control_transfer.md R201 to R205, R207 to R211, R217 to R224, with their encodings: every conditional jump goes to the
next instruction's offset plus the sign-extended byte when its condition holds, which empties the prefetch queue (20_memory.md
R72), and on when it does not; nothing else changes. -/
def Obligations.ConditionalJumps : Prop :=
  ∀ (d : Byte) (rest : Bytes) (s : State),
    ∀ p ∈ [((0x77 : Byte), Instr.ja d, !s.flags.CF && !s.flags.ZF), (0x73, .jae d, !s.flags.CF),
        (0x72, .jb d, s.flags.CF), (0x76, .jbe d, s.flags.CF || s.flags.ZF), (0x74, .je d, s.flags.ZF),
        (0x7F, .jg d, s.flags.SF == s.flags.OF && !s.flags.ZF), (0x7D, .jge d, s.flags.SF == s.flags.OF),
        (0x7C, .jl d, s.flags.SF != s.flags.OF), (0x7E, .jle d, s.flags.SF != s.flags.OF || s.flags.ZF),
        (0x75, .jne d, !s.flags.ZF), (0x71, .jno d, !s.flags.OF), (0x79, .jns d, !s.flags.SF),
        (0x7B, .jnp d, !s.flags.PF), (0x70, .jo d, s.flags.OF), (0x7A, .jp d, s.flags.PF), (0x78, .js d, s.flags.SF)],
      decode (p.1 :: d :: rest) = .ok (p.2.1, rest) ∧
        ∃ t, exec p.2.1 s = .next t ∧ t.ip = (if p.2.2 then s.ip + d.signExtend 16 else s.ip) ∧
          t.queue = (if p.2.2 then [] else s.queue) ∧ t.flags = s.flags ∧ t.bus = s.bus ∧ s.keeps t [] [] []

/-- 40_arithmetic.md R128, 42_control_transfer.md R200: after CMP the jumps compare the operands, the above and below ones as
unsigned numbers and the greater and less ones as signed numbers. -/
def Obligations.CompareThenJump : Prop :=
  ∀ (f : AluForm) (s : State) (d : Byte),
    ∃ t, exec (.cmp f) s = .next t ∧
      match AluForm.operands f s with
      | .byte _ a b =>
        ∀ p ∈ [(Instr.je d, decide (a = b)), (.jne d, decide (a ≠ b)), (.jb d, decide (a.toNat < b.toNat)),
            (.jae d, decide (b.toNat ≤ a.toNat)), (.jbe d, decide (a.toNat ≤ b.toNat)),
            (.ja d, decide (b.toNat < a.toNat)), (.jl d, decide (a.toInt < b.toInt)),
            (.jge d, decide (b.toInt ≤ a.toInt)), (.jle d, decide (a.toInt ≤ b.toInt)),
            (.jg d, decide (b.toInt < a.toInt))],
          ∃ u, exec p.1 t = .next u ∧ u.ip = if p.2 then t.ip + d.signExtend 16 else t.ip
      | .word _ a b =>
        ∀ p ∈ [(Instr.je d, decide (a = b)), (.jne d, decide (a ≠ b)), (.jb d, decide (a.toNat < b.toNat)),
            (.jae d, decide (b.toNat ≤ a.toNat)), (.jbe d, decide (a.toNat ≤ b.toNat)),
            (.ja d, decide (b.toNat < a.toNat)), (.jl d, decide (a.toInt < b.toInt)),
            (.jge d, decide (b.toInt ≤ a.toInt)), (.jle d, decide (a.toInt ≤ b.toInt)),
            (.jg d, decide (b.toInt < a.toInt))],
          ∃ u, exec p.1 t = .next u ∧ u.ip = if p.2 then t.ip + d.signExtend 16 else t.ip

/-- 42_control_transfer.md R206, R225, R226, R227, with their encodings: JCXZ only looks at CX; the loops lower it by 1 modulo
2^16, change no flag, and jump while it is not 0 (and ZF is as the mnemonic says). A jump taken empties the prefetch queue
(20_memory.md R72). -/
def Obligations.CountedJumps : Prop :=
  ∀ (d : Byte) (rest : Bytes) (s : State),
    (decode (0xE3 :: d :: rest) = .ok (.jcxz d, rest) ∧
      ∃ t, exec (.jcxz d) s = .next t ∧ t.ip = (if s.reg .cx = 0 then s.ip + d.signExtend 16 else s.ip) ∧
        t.queue = (if s.reg .cx = 0 then [] else s.queue) ∧ t.flags = s.flags ∧ t.bus = s.bus ∧ s.keeps t [] [] []) ∧
      ∀ p ∈ [((0xE2 : Byte), Instr.loop d, true), (0xE1, .loope d, s.flags.ZF), (0xE0, .loopne d, !s.flags.ZF)],
        decode (p.1 :: d :: rest) = .ok (p.2.1, rest) ∧
          ∃ t, exec p.2.1 s = .next t ∧ t.reg .cx = s.reg .cx - 1 ∧
            t.ip = (if p.2.2 = true ∧ s.reg .cx ≠ 1 then s.ip + d.signExtend 16 else s.ip) ∧
            t.queue = (if p.2.2 = true ∧ s.reg .cx ≠ 1 then [] else s.queue) ∧
            t.flags = s.flags ∧ t.bus = s.bus ∧ s.keeps t [.cx] [] []

/-- 42_control_transfer.md R212 to R216: the five jumps, the near ones inside the code segment; each empties the prefetch
queue (20_memory.md R72). -/
def Obligations.JumpTargets : Prop :=
  ∀ (d : Byte) (disp o b : Word) (rm : RM16) (m : MemOp) (s : State),
    (∀ p ∈ [(Instr.jmpShort d, s.ip + d.signExtend 16), (.jmpNear disp, s.ip + disp), (.jmpNearInd rm, s.readRM16 rm)],
      ∃ t, exec p.1 s = .next t ∧ t.ip = p.2 ∧ t.queue = [] ∧ t.flags = s.flags ∧ t.bus = s.bus ∧
        s.keeps t [] [] []) ∧
    ∀ p ∈ [(Instr.jmpFar o b, b, o),
        (.jmpFarInd m, s.read16 (s.segOf m) (s.ea m + 2), s.read16 (s.segOf m) (s.ea m))],
      ∃ t, exec p.1 s = .next t ∧ t.seg .cs = p.2.1 ∧ t.ip = p.2.2 ∧ t.queue = [] ∧ t.flags = s.flags ∧
        t.bus = s.bus ∧ s.keeps t [] [.cs] []

/-- 42_control_transfer.md R192 to R195: a near call pushes the next instruction's offset, a far call CS and then that offset;
the target is what the operands give before anything is pushed; the prefetch queue is emptied (20_memory.md R72). -/
def Obligations.CallsSaveReturnAddress : Prop :=
  ∀ (disp o b : Word) (rm : RM16) (m : MemOp) (s : State),
    (∀ p ∈ [(Instr.callNear disp, s.ip + disp), (.callNearInd rm, s.readRM16 rm)],
      ∃ t, exec p.1 s = .next t ∧ t.ip = p.2 ∧ t.reg .sp = s.reg .sp - 2 ∧
        t.mem.read16 (s.seg .ss) (s.reg .sp - 2) = s.ip ∧ t.queue = [] ∧ t.flags = s.flags ∧
        t.bus = s.bus ∧ s.keeps t [.sp] [] (s.wordBytes .ss (s.reg .sp - 2))) ∧
    ∀ p ∈ [(Instr.callFar o b, b, o),
        (.callFarInd m, s.read16 (s.segOf m) (s.ea m + 2), s.read16 (s.segOf m) (s.ea m))],
      ∃ t, exec p.1 s = .next t ∧ t.seg .cs = p.2.1 ∧ t.ip = p.2.2 ∧ t.reg .sp = s.reg .sp - 4 ∧
        t.mem.read16 (s.seg .ss) (s.reg .sp - 2) = s.seg .cs ∧ t.mem.read16 (s.seg .ss) (s.reg .sp - 4) = s.ip ∧
        t.queue = [] ∧ t.flags = s.flags ∧ t.bus = s.bus ∧
        s.keeps t [.sp] [.cs] (s.wordBytes .ss (s.reg .sp - 2) ++ s.wordBytes .ss (s.reg .sp - 4))

/-- 42_control_transfer.md R228 to R231, with their encodings: a return pops the offset, a far one the segment after it; a pop
value is added to SP; the prefetch queue is emptied (20_memory.md R72). -/
def Obligations.ReturnsPopAddress : Prop :=
  ∀ (n : Word) (rest : Bytes) (s : State),
    (∀ p ∈ [([(0xC3 : Byte)], Instr.ret, (0 : Word)), ([0xC2, n.lo, n.hi], .retPop n, n)],
      decode (p.1 ++ rest) = .ok (p.2.1, rest) ∧
        ∃ t, exec p.2.1 s = .next t ∧ t.ip = s.read16 .ss (s.reg .sp) ∧ t.reg .sp = s.reg .sp + 2 + p.2.2 ∧
          t.queue = [] ∧ t.flags = s.flags ∧ t.bus = s.bus ∧ s.keeps t [.sp] [] []) ∧
    ∀ p ∈ [([(0xCB : Byte)], Instr.retFar, (0 : Word)), ([0xCA, n.lo, n.hi], .retFarPop n, n)],
      decode (p.1 ++ rest) = .ok (p.2.1, rest) ∧
        ∃ t, exec p.2.1 s = .next t ∧ t.ip = s.read16 .ss (s.reg .sp) ∧ t.seg .cs = s.read16 .ss (s.reg .sp + 2) ∧
          t.reg .sp = s.reg .sp + 4 + p.2.2 ∧ t.queue = [] ∧ t.flags = s.flags ∧ t.bus = s.bus ∧
          s.keeps t [.sp] [.cs] []

/-! ### Interrupts -/

/-- 42_control_transfer.md R196, R197, R198, with their encodings: INT and INT 3 enter the interrupt procedure of their type
with the next instruction's offset saved; INTO enters type 4 when OF is set and else does nothing. -/
def Obligations.SoftwareInterrupts : Prop :=
  ∀ (n : Byte) (rest : Bytes) (s : State),
    decode (0xCD :: n :: rest) = .ok (.int n, rest) ∧ decode (0xCC :: rest) = .ok (.int3, rest) ∧
    decode (0xCE :: rest) = .ok (.into, rest) ∧
    (∃ t, exec (.int n) s = .next t ∧ s.entered t n s.flags s.ip []) ∧
    (∃ t, exec .int3 s = .next t ∧ s.entered t 3 s.flags s.ip []) ∧
    ∃ t, exec .into s = .next t ∧ if s.flags.OF then s.entered t 4 s.flags s.ip [] else t = s

/-- 42_control_transfer.md R191, 60_exceptions.md R345: BOUND does nothing while the signed register lies between the two
words of the operand, both included, and else enters type 5 (the signed comparison is general knowledge, log 30). -/
def Obligations.BoundChecksIndex : Prop :=
  ∀ (r : Reg16) (m : MemOp) (s : State),
    ∃ t, exec (.bound r m) s = .next t ∧
      if (s.read16 (s.segOf m) (s.ea m)).toInt ≤ (s.reg r).toInt ∧
          (s.reg r).toInt ≤ (s.read16 (s.segOf m) (s.ea m + 2)).toInt then t = s
      else s.entered t 5 s.flags s.faultReturnIp []

/-- 42_control_transfer.md R199: IRET pops IP, CS and the nine flags, each from its bit of the third word (10_state.md R25);
the prefetch queue is emptied (20_memory.md R72). -/
def Obligations.InterruptReturn : Prop :=
  ∀ s : State,
    ∃ t, exec .iret s = .next t ∧ t.ip = s.read16 .ss (s.reg .sp) ∧ t.seg .cs = s.read16 .ss (s.reg .sp + 2) ∧
      t.flags.inWord (s.read16 .ss (s.reg .sp + 4)) ∧ t.reg .sp = s.reg .sp + 6 ∧ t.queue = [] ∧ t.bus = s.bus ∧
      s.keeps t [.sp] [.cs] []

/-- 42_control_transfer.md R192 to R198, R228, R230, 60_exceptions.md R356: a procedure that has SP, SS and memory as the
transfer left them returns behind it with SP as before: RET after a near CALL, far RET after a far CALL, CS restored, direct
or indirect; IRET after INT, INT 3 or an INTO that OF lets through, CS and all nine flags restored, whatever `FLAGS_RESERVED`
is. -/
def Obligations.ReturnsUndoTransfers : Prop :=
  ∀ (disp o b : Word) (rm : RM16) (m : MemOp) (n : Byte) (s : State),
    (∀ i ∈ [Instr.callNear disp, .callNearInd rm],
      ∃ t, exec i s = .next t ∧
        ∀ u : State, u.reg .sp = t.reg .sp → u.seg .ss = t.seg .ss → u.mem = t.mem →
          ∃ v, exec .ret u = .next v ∧ v.ip = s.ip ∧ v.reg .sp = s.reg .sp) ∧
    (∀ i ∈ [Instr.callFar o b, .callFarInd m],
      ∃ t, exec i s = .next t ∧
        ∀ u : State, u.reg .sp = t.reg .sp → u.seg .ss = t.seg .ss → u.mem = t.mem →
          ∃ v, exec .retFar u = .next v ∧ v.ip = s.ip ∧ v.seg .cs = s.seg .cs ∧ v.reg .sp = s.reg .sp) ∧
    ∀ i ∈ [Instr.int n, .int3, .into], (i = .into → s.flags.OF = true) →
      ∃ t, exec i s = .next t ∧
        ∀ u : State, u.reg .sp = t.reg .sp → u.seg .ss = t.seg .ss → u.mem = t.mem →
          ∃ v, exec .iret u = .next v ∧ v.ip = s.ip ∧ v.seg .cs = s.seg .cs ∧ v.flags = s.flags ∧
            v.reg .sp = s.reg .sp

/-! ### Flags and processor control -/

/-- 43_flag_processor_control.md R250 to R256, with their encodings: the one flag changes, and for STI `sti_shadow` is set
when IF was 0 (that an STI with IF already 1 sets none is the spec's own decision, 92_eei_decisions.md D16). -/
def Obligations.FlagOperations : Prop :=
  ∀ (s : State) (rest : Bytes),
    (∀ p ∈ [(Instr.clc, (0xF8 : Byte), { s.flags with CF := false }), (.cld, 0xFC, { s.flags with DF := false }),
        (.cmc, 0xF5, { s.flags with CF := !s.flags.CF }), (.stc, 0xF9, { s.flags with CF := true }),
        (.std, 0xFD, { s.flags with DF := true }), (.cli, 0xFA, { s.flags with IF := false })],
      decode (p.2.1 :: rest) = .ok (p.1, rest) ∧ exec p.1 s = .next { s with flags := p.2.2 }) ∧
    decode (0xFB :: rest) = .ok (.sti, rest) ∧
      exec .sti s =
        .next { s with flags := { s.flags with IF := true }, stiShadow := s.stiShadow || !s.flags.IF }

/-- 43_flag_processor_control.md R257, R258, with their encodings: LAHF copies five flags into AH, whose bits 5, 3 and 1 are
open; SAHF copies them back; nothing else changes. -/
def Obligations.FlagsThroughAh : Prop :=
  ∀ (s : State) (rest : Bytes),
    decode (0x9F :: rest) = .ok (.lahf, rest) ∧ decode (0x9E :: rest) = .ok (.sahf, rest) ∧
    (∃ t, exec .lahf s = .next t ∧ (t.reg8 .ah).getLsbD 7 = s.flags.SF ∧ (t.reg8 .ah).getLsbD 6 = s.flags.ZF ∧
        (t.reg8 .ah).getLsbD 4 = s.flags.AF ∧ (t.reg8 .ah).getLsbD 2 = s.flags.PF ∧
        (t.reg8 .ah).getLsbD 0 = s.flags.CF ∧ t.reg8 .al = s.reg8 .al ∧ t.flags = s.flags ∧ s.keeps t [.ax] [] [] ∧
        s.goesOn t) ∧
    ∃ t, exec .sahf s = .next t ∧
      t.flags = { s.flags with
        SF := (s.reg8 .ah).getLsbD 7, ZF := (s.reg8 .ah).getLsbD 6, AF := (s.reg8 .ah).getLsbD 4,
        PF := (s.reg8 .ah).getLsbD 2, CF := (s.reg8 .ah).getLsbD 0 } ∧ s.keeps t [] [] [] ∧ s.goesOn t

/-- 43_flag_processor_control.md R259, R260, R261, 44_string.md R290, with the encodings: NOP does nothing; a prefix only puts
itself in force for the instruction that follows, the last of its kind governing (30_encoding.md R94). -/
def Obligations.NopAndPrefixes : Prop :=
  ∀ (s : State) (rest : Bytes),
    decode (0x90 :: rest) = .ok (.nop, rest) ∧ exec .nop s = .next s ∧
    decode (0xF0 :: rest) = .ok (.lock, rest) ∧
    exec .lock s = .next { s with pre := { s.pre with active := true, lock := true } } ∧
    (∀ p ∈ [((0x26 : Byte), SegReg.es), (0x2E, .cs), (0x36, .ss), (0x3E, .ds)],
      decode (p.1 :: rest) = .ok (.seg p.2, rest) ∧
        exec (.seg p.2) s = .next { s with pre := { s.pre with active := true, seg := some p.2 } }) ∧
    ∀ p ∈ [((0xF3 : Byte), Instr.rep, true), (0xF2, .repne, false)],
      decode (p.1 :: rest) = .ok (p.2.1, rest) ∧
        exec p.2.1 s = .next { s with pre := { s.pre with active := true, rep := some p.2.2 } }

/-- 43_flag_processor_control.md R262, R263, R264: ESC puts its opcode and the word of a memory operand on the bus and changes
nothing else, or enters type 7 (`ESC_ACTION`, log 18); HLT enters the halt state; WAIT does nothing while the test line is
active and else enters the wait state. -/
def Obligations.EscapeHaltAndWait : Prop :=
  ∀ (opcode : BitVec 6) (rm : RM16) (s : State),
    (∃ t, exec (.esc opcode rm) s = .next t ∧
      if Config.escTraps then s.entered t 7 s.flags s.thisIp []
      else t.bus = .escape opcode (match rm with | .reg _ => none | .mem m => some (s.readMem16 m)) :: s.bus ∧
        t.flags = s.flags ∧ t.ip = s.ip ∧ s.keeps t [] [] []) ∧
    exec .hlt s = .next { s with halted := true } ∧
    exec .wait s = .next (if s.lines.test then s else { s with waiting := true })

/-! ### Strings -/

/-- An index register after one element (44_string.md R280). -/
def stepped (s : State) (r : Reg16) (w : Width) : Word :=
  match s.flags.DF, w with
  | false, .byte => s.reg r + 1
  | false, .word => s.reg r + 2
  | true, .byte => s.reg r - 1
  | true, .word => s.reg r - 2

/-- 44_string.md R280, R283, R284, R287: MOVS, STOS and LODS without a repeat prefix move one element: from the source at SI
(in DS or the override) or from the accumulator, to ES:DI or to the accumulator; each index register used is stepped; no flag
changes. -/
def Obligations.StringMoves : Prop :=
  ∀ s : State, s.pre.rep = none →
    let sourceSeg := s.pre.seg.getD .ds
    (∃ t, exec (.movs .byte) s = .next t ∧
        t.mem.read (phys (s.seg .es) (s.reg .di)) = s.read8 sourceSeg (s.reg .si) ∧
        t.reg .si = stepped s .si .byte ∧ t.reg .di = stepped s .di .byte ∧ t.flags = s.flags ∧ s.goesOn t ∧
        s.keeps t [.si, .di] [] [phys (s.seg .es) (s.reg .di)]) ∧
    (∃ t, exec (.movs .word) s = .next t ∧
        t.mem.read16 (s.seg .es) (s.reg .di) = s.read16 sourceSeg (s.reg .si) ∧
        t.reg .si = stepped s .si .word ∧ t.reg .di = stepped s .di .word ∧ t.flags = s.flags ∧ s.goesOn t ∧
        s.keeps t [.si, .di] [] (s.wordBytes .es (s.reg .di))) ∧
    (∃ t, exec (.stos .byte) s = .next t ∧ t.mem.read (phys (s.seg .es) (s.reg .di)) = s.reg8 .al ∧
        t.reg .di = stepped s .di .byte ∧ t.flags = s.flags ∧ s.goesOn t ∧
        s.keeps t [.di] [] [phys (s.seg .es) (s.reg .di)]) ∧
    (∃ t, exec (.stos .word) s = .next t ∧ t.mem.read16 (s.seg .es) (s.reg .di) = s.reg .ax ∧
        t.reg .di = stepped s .di .word ∧ t.flags = s.flags ∧ s.goesOn t ∧
        s.keeps t [.di] [] (s.wordBytes .es (s.reg .di))) ∧
    (∃ t, exec (.lods .byte) s = .next t ∧ t.reg8 .al = s.read8 sourceSeg (s.reg .si) ∧ t.reg8 .ah = s.reg8 .ah ∧
        t.reg .si = stepped s .si .byte ∧ t.flags = s.flags ∧ s.goesOn t ∧ s.keeps t [.ax, .si] [] []) ∧
    ∃ t, exec (.lods .word) s = .next t ∧ t.reg .ax = s.read16 sourceSeg (s.reg .si) ∧
        t.reg .si = stepped s .si .word ∧ t.flags = s.flags ∧ s.goesOn t ∧ s.keeps t [.ax, .si] [] []

/-- 44_string.md R280, R281, R286: CMPS sets the flags of source element minus destination element, SCAS of accumulator minus
destination element; neither writes an element or the accumulator. -/
def Obligations.StringCompares : Prop :=
  ∀ s : State, s.pre.rep = none →
    let sourceSeg := s.pre.seg.getD .ds
    (∃ t, exec (.cmps .byte) s = .next t ∧
        s.flags.afterSub t.flags (s.read8 sourceSeg (s.reg .si)) (s.read8 .es (s.reg .di)) false ∧
        t.reg .si = stepped s .si .byte ∧ t.reg .di = stepped s .di .byte ∧ s.goesOn t ∧
        s.keeps t [.si, .di] [] []) ∧
    (∃ t, exec (.cmps .word) s = .next t ∧
        s.flags.afterSub t.flags (s.read16 sourceSeg (s.reg .si)) (s.read16 .es (s.reg .di)) false ∧
        t.reg .si = stepped s .si .word ∧ t.reg .di = stepped s .di .word ∧ s.goesOn t ∧
        s.keeps t [.si, .di] [] []) ∧
    (∃ t, exec (.scas .byte) s = .next t ∧
        s.flags.afterSub t.flags (s.reg8 .al) (s.read8 .es (s.reg .di)) false ∧ t.reg .di = stepped s .di .byte ∧
        s.goesOn t ∧ s.keeps t [.di] [] []) ∧
    ∃ t, exec (.scas .word) s = .next t ∧
        s.flags.afterSub t.flags (s.reg .ax) (s.read16 .es (s.reg .di)) false ∧ t.reg .di = stepped s .di .word ∧
        s.goesOn t ∧ s.keeps t [.di] [] []

/-- 44_string.md R290, R291: with a repeat prefix a string instruction does nothing when CX is 0; else one step is one
repetition: what the instruction does without the prefix, CX lowered by 1, and the instruction ends when CX has become 0 or a
comparison has posted a ZF other than the prefix's; if it does not end, IP is back at its first prefix byte (that a repetition
is a step of its own is the model's choice, log 1). And a request that may be recognised before a repetition, the first
included, is taken in its place, with `this_ip` saved. -/
def Obligations.RepeatedStrings : Prop :=
  (∀ (s : State) (w : Width) (z : Bool), s.pre.rep = some z →
    ∀ p ∈ [(Instr.cmps w, true), (.ins w, false), (.lods w, false), (.movs w, false), (.outs w, false), (.scas w, true),
        (.stos w, false)],
      if s.reg .cx = 0 then exec p.1 s = .next s
      else
        ∃ u t, exec p.1 { s with pre := { s.pre with rep := none } } = .next u ∧ exec p.1 s = .next t ∧
          t.reg .cx = s.reg .cx - 1 ∧ (∀ r, r ≠ .cx → t.reg r = u.reg r) ∧ t.mem = u.mem ∧ t.flags = u.flags ∧
          t.segs = u.segs ∧ t.bus = u.bus ∧ t.stored = u.stored ∧
          if s.reg .cx = 1 ∨ (p.2 = true ∧ u.flags.ZF ≠ z) then t.ip = s.ip ∧ t.pre.again = s.pre.again
          else t.ip = s.thisIp ∧ t.pre.again = true) ∧
  ∀ (s : State) (i : Instr) (rest : Bytes) (n : Byte) (l : Lines),
    s.lines.reset = false → s.halted = false → s.waiting = false → decode s.fetchBytes = .ok (i, rest) →
    s.storedFrom s.ip (maxInstrBytes - rest.length) = false → s.prefixRefusal i = none → Instr.isString i = true →
    s.pre.rep.isSome = true → s.reg .cx ≠ 0 → s.request = some (n, l) →
    ∃ t, { s with lines := l, pre := {} }.entered t n s.flags (if s.pre.active then s.thisIp else s.ip) [] ∧
      step s = if s.storesIntoText t then .refused .storeIntoProgramText else .next t

/-! ### Input and output -/

/-- 45_data_transfer.md R302, R303, 44_string.md R282, R285: the input instructions store a value the environment chooses and
leave a record of the read; the output ones leave a record of the write; the port is the immediate zero-extended or DX. -/
def Obligations.PortInstructions : Prop :=
  ∀ (p : Port) (s : State),
    let n := match p with | .imm b => b.zeroExtend 16 | .dx => s.reg .dx
    (∃ t v, exec (.inPort .byte p) s = .next t ∧ t.reg8 .al = v ∧ t.reg8 .ah = s.reg8 .ah ∧
        t.bus = .portRead n .byte (v.zeroExtend 16) :: s.bus ∧ t.ip = s.ip ∧ t.flags = s.flags ∧
        s.keeps t [.ax] [] []) ∧
    (∃ t v, exec (.inPort .word p) s = .next t ∧ t.reg .ax = v ∧ t.bus = .portRead n .word v :: s.bus ∧ t.ip = s.ip ∧
        t.flags = s.flags ∧ s.keeps t [.ax] [] []) ∧
    (∃ t, exec (.outPort .byte p) s = .next t ∧
        t.bus = .portWrite n .byte ((s.reg8 .al).zeroExtend 16) :: s.bus ∧ t.ip = s.ip ∧ t.flags = s.flags ∧
        s.keeps t [] [] []) ∧
    (∃ t, exec (.outPort .word p) s = .next t ∧ t.bus = .portWrite n .word (s.reg .ax) :: s.bus ∧ t.ip = s.ip ∧
        t.flags = s.flags ∧ s.keeps t [] [] []) ∧
    (s.pre.rep = none →
      (∃ t v, exec (.ins .byte) s = .next t ∧ t.mem.read (phys (s.seg .es) (s.reg .di)) = v ∧
          t.bus = .portRead (s.reg .dx) .byte (v.zeroExtend 16) :: s.bus ∧ t.reg .di = stepped s .di .byte ∧
          t.ip = s.ip ∧ t.flags = s.flags ∧ s.keeps t [.di] [] [phys (s.seg .es) (s.reg .di)]) ∧
      (∃ t v, exec (.ins .word) s = .next t ∧ t.mem.read16 (s.seg .es) (s.reg .di) = v ∧
          t.bus = .portRead (s.reg .dx) .word v :: s.bus ∧ t.reg .di = stepped s .di .word ∧ t.ip = s.ip ∧
          t.flags = s.flags ∧ s.keeps t [.di] [] (s.wordBytes .es (s.reg .di))) ∧
      (∃ t, exec (.outs .byte) s = .next t ∧
          t.bus = .portWrite (s.reg .dx) .byte ((s.read8 (s.pre.seg.getD .ds) (s.reg .si)).zeroExtend 16) :: s.bus ∧
          t.reg .si = stepped s .si .byte ∧ t.ip = s.ip ∧ t.flags = s.flags ∧ s.keeps t [.si] [] []) ∧
      ∃ t, exec (.outs .word) s = .next t ∧
          t.bus = .portWrite (s.reg .dx) .word (s.read16 (s.pre.seg.getD .ds) (s.reg .si)) :: s.bus ∧
          t.reg .si = stepped s .si .word ∧ t.ip = s.ip ∧ t.flags = s.flags ∧ s.keeps t [.si] [] [])

/-! ### Data transfer and the stack -/

/-- 45_data_transfer.md R307: every form of MOV gives its destination the source's value and changes nothing else. -/
def Obligations.MovMovesValue : Prop :=
  ∀ (f : MovForm) (s : State),
    match MovForm.moved f s with
    | .byte d v => ∃ t, exec (.mov f) s = .next t ∧ s.puts8 t d v ∧ t.flags = s.flags ∧ s.goesOn t
    | .word d v => ∃ t, exec (.mov f) s = .next t ∧ s.puts16 t d v ∧ t.flags = s.flags ∧ s.goesOn t

/-- 45_data_transfer.md R308, R310: MOV from a segment register; MOV and POP to one load it and set `seg_inhibit` (general
knowledge, log 28); CS as a destination is refused (92_eei_decisions.md D27, log 37). -/
def Obligations.SegmentRegisterMoves : Prop :=
  ∀ (sr : SegReg) (rm : RM16) (s : State),
    (∃ t, exec (.movFromSeg rm sr) s = .next t ∧ s.puts16 t rm (s.seg sr) ∧ t.flags = s.flags ∧ s.goesOn t) ∧
    (if sr = .cs then exec (.movToSeg sr rm) s = .refused .codeSegmentDestination
      else ∃ t, exec (.movToSeg sr rm) s = .next t ∧ t.seg sr = s.readRM16 rm ∧ t.segInhibit = true ∧
        t.flags = s.flags ∧ s.goesOn t ∧ { s with segInhibit := true }.keeps t [] [sr] []) ∧
    if sr = .cs then exec (.popSeg sr) s = .refused .codeSegmentDestination
    else ∃ t, exec (.popSeg sr) s = .next t ∧ t.seg sr = s.read16 .ss (s.reg .sp) ∧ t.reg .sp = s.reg .sp + 2 ∧
      t.segInhibit = true ∧ t.flags = s.flags ∧ s.goesOn t ∧ { s with segInhibit := true }.keeps t [.sp] [sr] []

/-- 45_data_transfer.md R309, R312: POP to a register or memory word, and POPF, each flag from its bit of the word
(10_state.md R25: CF 0, PF 2, AF 4, ZF 6, SF 7, TF 8, IF 9, DF 10, OF 11). Only for SP itself is the outcome a parameter
(`POP_SP_RESULT`, log 17): the popped word, or that plus 2. -/
def Obligations.PopsTransferTop : Prop :=
  ∀ (r : Reg16) (m : MemOp) (s : State),
    let top := s.read16 .ss (s.reg .sp)
    (∀ i ∈ [Instr.popReg r, .popRm (.reg r)],
      ∃ t, exec i s = .next t ∧ (if r = .sp then t.reg r = top ∨ t.reg r = top + 2
          else t.reg r = top ∧ t.reg .sp = s.reg .sp + 2) ∧ t.flags = s.flags ∧ s.goesOn t ∧
        s.keeps t [r, .sp] [] []) ∧
    (∃ t, exec (.popRm (.mem m)) s = .next t ∧ t.mem.read16 (s.seg (s.segOf m)) (s.ea m) = top ∧
        t.reg .sp = s.reg .sp + 2 ∧ t.flags = s.flags ∧ s.goesOn t ∧
        s.keeps t [.sp] [] (s.wordBytes (s.segOf m) (s.ea m))) ∧
    ∃ t, exec .popf s = .next t ∧ t.flags.inWord top ∧ t.reg .sp = s.reg .sp + 2 ∧ s.goesOn t ∧
      s.keeps t [.sp] [] []

/-- 45_data_transfer.md R313, R314, R315, R317: a push lowers SP by 2 and stores one word there: a register (SP itself after
the lowering), a memory word, a segment register, an immediate (general knowledge, log 31) or the flag word, which has each
flag at its bit (10_state.md R25: CF 0, PF 2, AF 4, ZF 6, SF 7, TF 8, IF 9, DF 10, OF 11). -/
def Obligations.PushesStoreWord : Prop :=
  ∀ (r : Reg16) (m : MemOp) (sr : SegReg) (iw : Word) (ib : Byte) (s : State),
    s.flags.inWord s.flags.toWord ∧
    ∀ p ∈ [(Instr.pushReg r, if r = .sp then s.reg .sp - 2 else s.reg r),
        (.pushRm (.reg r), if r = .sp then s.reg .sp - 2 else s.reg r), (.pushRm (.mem m), s.readMem16 m),
        (.pushSeg sr, s.seg sr), (.pushImm16 iw, iw), (.pushImm8 ib, ib.signExtend 16), (.pushf, s.flags.toWord)],
      ∃ t, exec p.1 s = .next t ∧ t.reg .sp = s.reg .sp - 2 ∧ t.mem.read16 (s.seg .ss) (s.reg .sp - 2) = p.2 ∧
        t.flags = s.flags ∧ s.goesOn t ∧ s.keeps t [.sp] [] (s.wordBytes .ss (s.reg .sp - 2))

/-- 45_data_transfer.md R311, R316: PUSHA stores the eight registers below SP in their order, SP as it was before the first
push; POPA loads seven of them back from the eight words above SP and skips SP's. -/
def Obligations.PushAllPopAll : Prop :=
  ∀ s : State,
    (∃ t, exec .pusha s = .next t ∧ t.reg .sp = s.reg .sp - 16 ∧
        (∀ p ∈ [((2 : Word), Reg16.ax), (4, .cx), (6, .dx), (8, .bx), (10, .sp), (12, .bp), (14, .si), (16, .di)],
          t.mem.read16 (s.seg .ss) (s.reg .sp - p.1) = s.reg p.2) ∧
        t.flags = s.flags ∧ s.goesOn t ∧
        s.keeps t [.sp] [] (([2, 4, 6, 8, 10, 12, 14, 16] : List Word).flatMap fun k =>
          s.wordBytes .ss (s.reg .sp - k))) ∧
    ∃ t, exec .popa s = .next t ∧ t.reg .sp = s.reg .sp + 16 ∧
      (∀ p ∈ [((0 : Word), Reg16.di), (2, .si), (4, .bp), (8, .bx), (10, .dx), (12, .cx), (14, .ax)],
        t.reg p.2 = s.read16 .ss (s.reg .sp + p.1)) ∧
      t.flags = s.flags ∧ s.goesOn t ∧ s.keeps t [.ax, .cx, .dx, .bx, .sp, .bp, .si, .di] [] []

/-- Memory when ENTER in the stack segment `ss` has pushed BP and then copied `k` frame pointers (45_data_transfer.md R300).
-/
def memFramesCopied (m : Memory) (ss sp bp : Word) : Nat → Memory
  | 0 => m.write16 ss (sp - 2) bp
  | k + 1 =>
    let m' := memFramesCopied m ss sp bp k
    m'.write16 ss (sp - 2 - BitVec.ofNat 16 (2 * (k + 1))) (m'.read16 ss (bp - BitVec.ofNat 16 (2 * (k + 1))))

/-- 45_data_transfer.md R300: ENTER pushes BP; with a nesting level `n` above 0 it then copies, for each `k` from 1 below `n`,
the word at BP - 2k as it is when its turn comes, and pushes the new frame pointer; then BP is the new frame pointer and SP is
lowered by the size of the local variables. The level is used as it stands up to 31; above that `ENTER_LEVEL_MASK` is the
model's parameter (log 16). -/
def Obligations.EnterBuildsFrame : Prop :=
  ∀ (locals : Word) (level : Byte) (s : State),
    let bp := s.reg .bp
    let sp := s.reg .sp
    let ss := s.seg .ss
    ∃ t, exec (.enter locals level) s = .next t ∧ t.reg .bp = sp - 2 ∧ t.flags = s.flags ∧ s.goesOn t ∧
      ∃ n : Nat, (level.toNat ≤ 31 → n = level.toNat) ∧ (n = level.toNat ∨ n = level.toNat % 32) ∧
        t.reg .sp = sp - 2 - BitVec.ofNat 16 (2 * n) - locals ∧ t.mem.read16 ss (sp - 2) = bp ∧
        (∀ k, 1 ≤ k → k < n →
          t.mem.read16 ss (sp - 2 - BitVec.ofNat 16 (2 * k)) =
            (memFramesCopied s.mem ss sp bp (k - 1)).read16 ss (bp - BitVec.ofNat 16 (2 * k))) ∧
        (1 ≤ n → t.mem.read16 ss (sp - 2 - BitVec.ofNat 16 (2 * n)) = sp - 2) ∧
        s.keeps t [.bp, .sp] [] ((List.range (n + 1)).flatMap fun k =>
          s.wordBytes .ss (sp - BitVec.ofNat 16 (2 * (k + 1))))

/-- 45_data_transfer.md R301: LEAVE releases the frame, and undoes ENTER of any level in a procedure that has left BP, SS and
memory as ENTER left them (how a level above 31 is used is the model's choice, `ENTER_LEVEL_MASK`, log 16). -/
def Obligations.LeaveUndoesEnter : Prop :=
  ∀ (locals : Word) (level : Byte) (s : State),
    (∃ t, exec .leave s = .next t ∧ t.reg .sp = s.reg .bp + 2 ∧ t.reg .bp = s.read16 .ss (s.reg .bp) ∧
        t.flags = s.flags ∧ s.goesOn t ∧ s.keeps t [.sp, .bp] [] []) ∧
    ∃ t, exec (.enter locals level) s = .next t ∧
      ∀ u : State, u.reg .bp = t.reg .bp → u.seg .ss = t.seg .ss → u.mem = t.mem →
        ∃ v, exec .leave u = .next v ∧ v.reg .bp = s.reg .bp ∧ v.reg .sp = s.reg .sp

/-- The effective address of a memory operand, added up as a number (20_memory.md R55, 30_encoding.md R85). -/
def effectiveAddress (s : State) : MemOp → Nat
  | .direct o => o.toNat
  | .indexed b d =>
    let base := match b with
      | .bxSi => (s.reg .bx).toNat + (s.reg .si).toNat
      | .bxDi => (s.reg .bx).toNat + (s.reg .di).toNat
      | .bpSi => (s.reg .bp).toNat + (s.reg .si).toNat
      | .bpDi => (s.reg .bp).toNat + (s.reg .di).toNat
      | .si => (s.reg .si).toNat
      | .di => (s.reg .di).toNat
      | .bp => (s.reg .bp).toNat
      | .bx => (s.reg .bx).toNat
    let disp := match d with
      | .none => 0
      | .d8 b => if b.toNat < 0x80 then b.toNat else 0xFF00 + b.toNat
      | .d16 w => w.toNat
    (base + disp) % 2 ^ 16

/-- The segment register of a memory operand: SS with BP, else DS, unless an override replaces it (20_memory.md R56). -/
def operandSegment (s : State) (m : MemOp) : SegReg :=
  match s.pre.seg, m with
  | some r, _ => r
  | none, .indexed .bpSi _ | none, .indexed .bpDi _ | none, .indexed .bp _ => .ss
  | none, _ => .ds

/-- 20_memory.md R55, R56, 30_encoding.md R85, 45_data_transfer.md R304, R305, R306: the effective address is the sum modulo
2^16 of one of the eight base and index combinations and a displacement, or a direct address, in SS for the forms with BP,
else in DS, or in the override; LDS and LES load a register and DS or ES from the doubleword there; LEA loads the effective
address itself and reads no memory. -/
def Obligations.PointerLoads : Prop :=
  ∀ (r : Reg16) (m : MemOp) (s : State),
    (s.ea m).toNat = effectiveAddress s m ∧ s.segOf m = operandSegment s m ∧
    (∀ p ∈ [(Instr.lds r m, SegReg.ds), (.les r m, .es)],
      ∃ t, exec p.1 s = .next t ∧ t.reg r = s.read16 (s.segOf m) (s.ea m) ∧
        t.seg p.2 = s.read16 (s.segOf m) (s.ea m + 2) ∧ t.flags = s.flags ∧ s.goesOn t ∧ s.keeps t [r] [p.2] []) ∧
    ∃ t, exec (.lea r m) s = .next t ∧ (t.reg r).toNat = effectiveAddress s m ∧ t.flags = s.flags ∧ s.goesOn t ∧
      s.keeps t [r] [] []

/-- 45_data_transfer.md R318, R319: XCHG gives each of its operands the other's value from before; XLAT replaces AL by the
byte at BX plus AL. -/
def Obligations.ExchangeAndTranslate : Prop :=
  ∀ (rm8 : RM8) (r8 : Reg8) (rm16 : RM16) (r : Reg16) (s : State),
    (∃ t, exec (.xchg (.rmReg8 rm8 r8)) s = .next t ∧ t.reg8 r8 = s.readRM8 rm8 ∧
        (match rm8 with
          | .reg q => t.reg8 q = s.reg8 r8 ∧ ∀ x, x ≠ q → x ≠ r8 → t.reg8 x = s.reg8 x
          | .mem m => t.mem.read (phys (s.seg (s.segOf m)) (s.ea m)) = s.reg8 r8 ∧
            ∀ x, x ≠ r8 → t.reg8 x = s.reg8 x) ∧ t.flags = s.flags ∧ s.goesOn t ∧
        s.keeps t (Reg8.parent r8 :: RM8.registers rm8) [] (RM8.bytes s rm8)) ∧
    (∃ t, exec (.xchg (.rmReg16 rm16 r)) s = .next t ∧ t.reg r = s.readRM16 rm16 ∧ s.holds16 t rm16 (s.reg r) ∧
        t.flags = s.flags ∧ s.goesOn t ∧ s.keeps t (r :: RM16.registers rm16) [] (RM16.bytes s rm16)) ∧
    (∃ t, exec (.xchgAx r) s = .next t ∧ t.reg .ax = s.reg r ∧ t.reg r = s.reg .ax ∧ t.flags = s.flags ∧ s.goesOn t ∧
        s.keeps t [.ax, r] [] []) ∧
    ∃ t, exec .xlat s = .next t ∧
      t.reg8 .al = s.read8 (s.pre.seg.getD .ds) (s.reg .bx + (s.reg8 .al).zeroExtend 16) ∧
      t.reg8 .ah = s.reg8 .ah ∧ t.flags = s.flags ∧ s.goesOn t ∧ s.keeps t [.ax] [] []

/-! ### Recognition of interrupts, reset, refusals, whole-machine rules -/

/-- 60_exceptions.md R353, R362, 70_reset_and_hazards.md R386, R387 (order and inhibitions from general knowledge, logs 27,
28): what `endInstr` does at the end `t` of every instruction or repetition that began in `s`, one that has entered the halt
or wait state included: the prefixes end; between two repetitions `sti_shadow` and `seg_inhibit` stay as they were (the
model's choice, log 1); an external request that may be recognised is taken with the current IP saved, or that of a WAIT that
is waiting (R340); then, on top, the single-step trap if it is armed and not inhibited. -/
def Obligations.BoundaryTakesInterrupts : Prop :=
  ∀ s t : State,
    let e : State :=
      if t.pre.again then { t with pre := {}, stiShadow := s.stiShadow, segInhibit := s.segInhibit }
      else { t with pre := {} }
    ∃ v : State,
      (match e.request with
        | some (n, l) => { e with lines := l }.entered v n e.flags (if e.waiting then e.thisIp else e.ip) []
        | none => v = e) ∧
      if v.trapArmed && !v.segInhibit then
        { v with trapArmed := false }.entered (s.endInstr t) 1 v.flags (if v.waiting then v.thisIp else v.ip) []
      else s.endInstr t = v

/-- 43_flag_processor_control.md R263, R264, 60_exceptions.md R361, R362: in the halt or wait state a step takes an NMI, else
a maskable request while IF is 1, saving the offset after HLT or that of the WAIT; else an active test line ends the wait and
nothing more; else nothing changes, and the final state stays. A step that stores into program text has no meaning
(20_memory.md R72, log 22). -/
def Obligations.HaltAndWaitStates : Prop :=
  ∀ s : State, s.lines.reset = false → s.halted || s.waiting →
    let ret := if s.waiting then s.thisIp else s.ip
    (s.final = true → step s = .next s) ∧
    ∃ t, (step s = if s.storesIntoText t then .refused .storeIntoProgramText else .next t) ∧
      if s.lines.nmi then { s with lines := { s.lines with nmi := false } }.entered t 2 s.flags ret []
      else
        match s.lines.intr, s.flags.IF with
        | some n, true => { s with lines := { s.lines with intr := none } }.entered t n s.flags ret []
        | _, _ =>
          if s.waiting && s.lines.test then t = { s with waiting := false } else t = s

/-- 70_reset_and_hazards.md R380: activating RESET, in any state, leaves CS, IP, DS, ES, SS, the flags and the hidden state as
after reset and memory with its program text as it was; the general registers are open (logs 8, 24); the prefetch queue is
empty and a new run begins, with nothing executed and nothing stored (log 22). -/
def Obligations.ResetLine : Prop :=
  ∀ s : State, s.lines.reset = true →
    ∃ t, step s = .next t ∧ t.segs = State.reset.segs ∧ t.ip = 0 ∧ t.flags = {} ∧ t.halted = false ∧
      t.waiting = false ∧ t.stiShadow = false ∧ t.segInhibit = false ∧ t.trapArmed = false ∧ t.pre = {} ∧
      t.queue = [] ∧ t.text = s.text ∧ t.executed = [] ∧ t.stored = [] ∧ t.mem = s.mem ∧ t.bus = s.bus ∧
      t.lines = { s.lines with reset := false }

/-- 30_encoding.md R91, R94, R99, 60_exceptions.md R348, 20_memory.md R72: when a step has no meaning. An instruction of which
a byte was stored to in this run is refused (log 22), and so are a repeat prefix before an instruction that is not a string
instruction and LOCK before one without a memory destination (log 21), and AAM and AAD with another base. Other bytes that are
no instruction, whatever prefixes stand before them, enter type 6 with `this_ip` saved or are refused
(`UNDEFINED_OPCODE_ACTION`), and are refused when one of the bytes that make them undefined was stored to (how many those are
is the model's choice, log 19). -/
def Obligations.StepRefusals : Prop :=
  ∀ s : State, s.lines.reset = false → s.halted = false → s.waiting = false →
    match decode s.fetchBytes with
    | .ok (i, rest) =>
      (s.storedFrom s.ip (maxInstrBytes - rest.length) = true → step s = .refused .staleInstructionByte) ∧
      (s.storedFrom s.ip (maxInstrBytes - rest.length) = false → Instr.isPrefix i = false →
        (s.pre.rep.isSome = true → Instr.isString i = false → step s = .refused .repeatBeforeNonString) ∧
        (s.pre.rep = none ∨ Instr.isString i = true → s.pre.lock = true → Instr.hasMemoryDestination i = false →
          step s = .refused .lockWithoutMemoryDestination))
    | .error .truncated => False
    | .error (.decimalBase op b) =>
      if s.storedFrom s.ip 2 then step s = .refused .staleInstructionByte
      else step s = .refused (.undefinedEncoding (.decimalBase op b))
    | .error e =>
      if s.storedFrom s.ip (DecodeError.span e) then step s = .refused .staleInstructionByte
      else if Config.undefinedOpcodeTraps then
        ∃ u, { (s.begin 0).executing (DecodeError.span e) with stiShadow := false, segInhibit := false }.entered u 6 s.flags
            (if s.pre.active then s.thisIp else s.ip) [] ∧
          step s =
            if s.storesIntoText (s.endInstr u) then .refused .storeIntoProgramText else .next (s.endInstr u)
      else step s = .refused (.undefinedEncoding e)

/-- 10_state.md R23, R28: whatever the state, only CLD, STD, POPF and IRET can change DF; only CLI, STI, POPF and IRET, and an
interrupt sequence that clears it, IF; only POPF and IRET, and an interrupt sequence that clears it, TF; and only far CALL,
JMP and RET, which leave IF and TF alone, IRET and the interrupt sequence change CS. -/
def Obligations.ControlFlagAndCsWriters : Prop :=
  ∀ (i : Instr) (s t : State), exec i s = .next t →
    (i ∉ [Instr.cld, .std, .popf, .iret] → t.flags.DF = s.flags.DF) ∧
    (i ∉ [Instr.cli, .sti, .popf, .iret] → t.flags.IF = s.flags.IF ∨ t.flags.IF = false) ∧
    (i ∉ [Instr.popf, .iret] → t.flags.TF = s.flags.TF ∨ t.flags.TF = false) ∧
    match i with
    | .callFar _ _ | .callFarInd _ | .jmpFar _ _ | .jmpFarInd _ | .retFar | .retFarPop _ =>
      t.flags.IF = s.flags.IF ∧ t.flags.TF = s.flags.TF
    | .iret | .int _ | .int3 | .into | .bound _ _ | .div _ | .idiv _ | .esc _ _ => True
    | _ => t.flags.IF = s.flags.IF ∧ t.flags.TF = s.flags.TF ∧ t.seg .cs = s.seg .cs ∨
        i ∈ [Instr.cli, .sti, .popf] ∧ t.seg .cs = s.seg .cs

end
end

