-- ==== Sys2Proof/Laws/State.lean ====
section
/-! SUPPORT. What each update of the state does to each field: one lemma per field per update, true by `rfl`. -/

namespace Sys2Proof.Machine

/-! ### `setReg` -/

@[simp] theorem State.setReg_regs (s : State) (r : Reg16) (v : Word) : (s.setReg r v).regs = s.regs.set r v := rfl

@[simp] theorem State.setReg_segs (s : State) (r : Reg16) (v : Word) : (s.setReg r v).segs = s.segs := rfl

@[simp] theorem State.setReg_ip (s : State) (r : Reg16) (v : Word) : (s.setReg r v).ip = s.ip := rfl

@[simp] theorem State.setReg_thisIp (s : State) (r : Reg16) (v : Word) : (s.setReg r v).thisIp = s.thisIp := rfl

@[simp] theorem State.setReg_flags (s : State) (r : Reg16) (v : Word) : (s.setReg r v).flags = s.flags := rfl

@[simp] theorem State.setReg_halted (s : State) (r : Reg16) (v : Word) : (s.setReg r v).halted = s.halted := rfl

@[simp] theorem State.setReg_waiting (s : State) (r : Reg16) (v : Word) : (s.setReg r v).waiting = s.waiting := rfl

@[simp] theorem State.setReg_stiShadow (s : State) (r : Reg16) (v : Word) : (s.setReg r v).stiShadow = s.stiShadow := rfl

@[simp] theorem State.setReg_segInhibit (s : State) (r : Reg16) (v : Word) : (s.setReg r v).segInhibit = s.segInhibit := rfl

@[simp] theorem State.setReg_trapArmed (s : State) (r : Reg16) (v : Word) : (s.setReg r v).trapArmed = s.trapArmed := rfl

@[simp] theorem State.setReg_pre (s : State) (r : Reg16) (v : Word) : (s.setReg r v).pre = s.pre := rfl

@[simp] theorem State.setReg_lines (s : State) (r : Reg16) (v : Word) : (s.setReg r v).lines = s.lines := rfl

@[simp] theorem State.setReg_bus (s : State) (r : Reg16) (v : Word) : (s.setReg r v).bus = s.bus := rfl

@[simp] theorem State.setReg_queue (s : State) (r : Reg16) (v : Word) : (s.setReg r v).queue = s.queue := rfl

@[simp] theorem State.setReg_text (s : State) (r : Reg16) (v : Word) : (s.setReg r v).text = s.text := rfl

@[simp] theorem State.setReg_executed (s : State) (r : Reg16) (v : Word) : (s.setReg r v).executed = s.executed := rfl

@[simp] theorem State.setReg_stored (s : State) (r : Reg16) (v : Word) : (s.setReg r v).stored = s.stored := rfl

@[simp] theorem State.setReg_draws (s : State) (r : Reg16) (v : Word) : (s.setReg r v).draws = s.draws := rfl

@[simp] theorem State.setReg_mem (s : State) (r : Reg16) (v : Word) : (s.setReg r v).mem = s.mem := rfl

/-! ### `setReg8` -/

@[simp] theorem State.setReg8_segs (s : State) (r : Reg8) (v : Byte) : (s.setReg8 r v).segs = s.segs := rfl

@[simp] theorem State.setReg8_ip (s : State) (r : Reg8) (v : Byte) : (s.setReg8 r v).ip = s.ip := rfl

@[simp] theorem State.setReg8_thisIp (s : State) (r : Reg8) (v : Byte) : (s.setReg8 r v).thisIp = s.thisIp := rfl

@[simp] theorem State.setReg8_flags (s : State) (r : Reg8) (v : Byte) : (s.setReg8 r v).flags = s.flags := rfl

@[simp] theorem State.setReg8_halted (s : State) (r : Reg8) (v : Byte) : (s.setReg8 r v).halted = s.halted := rfl

@[simp] theorem State.setReg8_waiting (s : State) (r : Reg8) (v : Byte) : (s.setReg8 r v).waiting = s.waiting := rfl

@[simp] theorem State.setReg8_stiShadow (s : State) (r : Reg8) (v : Byte) : (s.setReg8 r v).stiShadow = s.stiShadow := rfl

@[simp] theorem State.setReg8_segInhibit (s : State) (r : Reg8) (v : Byte) : (s.setReg8 r v).segInhibit = s.segInhibit := rfl

@[simp] theorem State.setReg8_trapArmed (s : State) (r : Reg8) (v : Byte) : (s.setReg8 r v).trapArmed = s.trapArmed := rfl

@[simp] theorem State.setReg8_pre (s : State) (r : Reg8) (v : Byte) : (s.setReg8 r v).pre = s.pre := rfl

@[simp] theorem State.setReg8_lines (s : State) (r : Reg8) (v : Byte) : (s.setReg8 r v).lines = s.lines := rfl

@[simp] theorem State.setReg8_bus (s : State) (r : Reg8) (v : Byte) : (s.setReg8 r v).bus = s.bus := rfl

@[simp] theorem State.setReg8_queue (s : State) (r : Reg8) (v : Byte) : (s.setReg8 r v).queue = s.queue := rfl

@[simp] theorem State.setReg8_text (s : State) (r : Reg8) (v : Byte) : (s.setReg8 r v).text = s.text := rfl

@[simp] theorem State.setReg8_executed (s : State) (r : Reg8) (v : Byte) : (s.setReg8 r v).executed = s.executed := rfl

@[simp] theorem State.setReg8_stored (s : State) (r : Reg8) (v : Byte) : (s.setReg8 r v).stored = s.stored := rfl

@[simp] theorem State.setReg8_draws (s : State) (r : Reg8) (v : Byte) : (s.setReg8 r v).draws = s.draws := rfl

@[simp] theorem State.setReg8_mem (s : State) (r : Reg8) (v : Byte) : (s.setReg8 r v).mem = s.mem := rfl

/-! ### `setSeg` -/

@[simp] theorem State.setSeg_regs (s : State) (r : SegReg) (v : Word) : (s.setSeg r v).regs = s.regs := rfl

@[simp] theorem State.setSeg_segs (s : State) (r : SegReg) (v : Word) : (s.setSeg r v).segs = s.segs.set r v := rfl

@[simp] theorem State.setSeg_ip (s : State) (r : SegReg) (v : Word) : (s.setSeg r v).ip = s.ip := rfl

@[simp] theorem State.setSeg_thisIp (s : State) (r : SegReg) (v : Word) : (s.setSeg r v).thisIp = s.thisIp := rfl

@[simp] theorem State.setSeg_flags (s : State) (r : SegReg) (v : Word) : (s.setSeg r v).flags = s.flags := rfl

@[simp] theorem State.setSeg_halted (s : State) (r : SegReg) (v : Word) : (s.setSeg r v).halted = s.halted := rfl

@[simp] theorem State.setSeg_waiting (s : State) (r : SegReg) (v : Word) : (s.setSeg r v).waiting = s.waiting := rfl

@[simp] theorem State.setSeg_stiShadow (s : State) (r : SegReg) (v : Word) : (s.setSeg r v).stiShadow = s.stiShadow := rfl

@[simp] theorem State.setSeg_segInhibit (s : State) (r : SegReg) (v : Word) : (s.setSeg r v).segInhibit = s.segInhibit := rfl

@[simp] theorem State.setSeg_trapArmed (s : State) (r : SegReg) (v : Word) : (s.setSeg r v).trapArmed = s.trapArmed := rfl

@[simp] theorem State.setSeg_pre (s : State) (r : SegReg) (v : Word) : (s.setSeg r v).pre = s.pre := rfl

@[simp] theorem State.setSeg_lines (s : State) (r : SegReg) (v : Word) : (s.setSeg r v).lines = s.lines := rfl

@[simp] theorem State.setSeg_bus (s : State) (r : SegReg) (v : Word) : (s.setSeg r v).bus = s.bus := rfl

@[simp] theorem State.setSeg_queue (s : State) (r : SegReg) (v : Word) : (s.setSeg r v).queue = s.queue := rfl

@[simp] theorem State.setSeg_text (s : State) (r : SegReg) (v : Word) : (s.setSeg r v).text = s.text := rfl

@[simp] theorem State.setSeg_executed (s : State) (r : SegReg) (v : Word) : (s.setSeg r v).executed = s.executed := rfl

@[simp] theorem State.setSeg_stored (s : State) (r : SegReg) (v : Word) : (s.setSeg r v).stored = s.stored := rfl

@[simp] theorem State.setSeg_draws (s : State) (r : SegReg) (v : Word) : (s.setSeg r v).draws = s.draws := rfl

@[simp] theorem State.setSeg_mem (s : State) (r : SegReg) (v : Word) : (s.setSeg r v).mem = s.mem := rfl

/-! ### `setFlags` -/

@[simp] theorem State.setFlags_regs (s : State) (f : Flags) : (s.setFlags f).regs = s.regs := rfl

@[simp] theorem State.setFlags_segs (s : State) (f : Flags) : (s.setFlags f).segs = s.segs := rfl

@[simp] theorem State.setFlags_ip (s : State) (f : Flags) : (s.setFlags f).ip = s.ip := rfl

@[simp] theorem State.setFlags_thisIp (s : State) (f : Flags) : (s.setFlags f).thisIp = s.thisIp := rfl

@[simp] theorem State.setFlags_flags (s : State) (f : Flags) : (s.setFlags f).flags = f := rfl

@[simp] theorem State.setFlags_halted (s : State) (f : Flags) : (s.setFlags f).halted = s.halted := rfl

@[simp] theorem State.setFlags_waiting (s : State) (f : Flags) : (s.setFlags f).waiting = s.waiting := rfl

@[simp] theorem State.setFlags_stiShadow (s : State) (f : Flags) : (s.setFlags f).stiShadow = s.stiShadow := rfl

@[simp] theorem State.setFlags_segInhibit (s : State) (f : Flags) : (s.setFlags f).segInhibit = s.segInhibit := rfl

@[simp] theorem State.setFlags_trapArmed (s : State) (f : Flags) : (s.setFlags f).trapArmed = s.trapArmed := rfl

@[simp] theorem State.setFlags_pre (s : State) (f : Flags) : (s.setFlags f).pre = s.pre := rfl

@[simp] theorem State.setFlags_lines (s : State) (f : Flags) : (s.setFlags f).lines = s.lines := rfl

@[simp] theorem State.setFlags_bus (s : State) (f : Flags) : (s.setFlags f).bus = s.bus := rfl

@[simp] theorem State.setFlags_queue (s : State) (f : Flags) : (s.setFlags f).queue = s.queue := rfl

@[simp] theorem State.setFlags_text (s : State) (f : Flags) : (s.setFlags f).text = s.text := rfl

@[simp] theorem State.setFlags_executed (s : State) (f : Flags) : (s.setFlags f).executed = s.executed := rfl

@[simp] theorem State.setFlags_stored (s : State) (f : Flags) : (s.setFlags f).stored = s.stored := rfl

@[simp] theorem State.setFlags_draws (s : State) (f : Flags) : (s.setFlags f).draws = s.draws := rfl

@[simp] theorem State.setFlags_mem (s : State) (f : Flags) : (s.setFlags f).mem = s.mem := rfl

/-! ### `jump` -/

@[simp] theorem State.jump_regs (s : State) (o : Word) : (s.jump o).regs = s.regs := rfl

@[simp] theorem State.jump_segs (s : State) (o : Word) : (s.jump o).segs = s.segs := rfl

@[simp] theorem State.jump_ip (s : State) (o : Word) : (s.jump o).ip = o := rfl

@[simp] theorem State.jump_thisIp (s : State) (o : Word) : (s.jump o).thisIp = s.thisIp := rfl

@[simp] theorem State.jump_flags (s : State) (o : Word) : (s.jump o).flags = s.flags := rfl

@[simp] theorem State.jump_halted (s : State) (o : Word) : (s.jump o).halted = s.halted := rfl

@[simp] theorem State.jump_waiting (s : State) (o : Word) : (s.jump o).waiting = s.waiting := rfl

@[simp] theorem State.jump_stiShadow (s : State) (o : Word) : (s.jump o).stiShadow = s.stiShadow := rfl

@[simp] theorem State.jump_segInhibit (s : State) (o : Word) : (s.jump o).segInhibit = s.segInhibit := rfl

@[simp] theorem State.jump_trapArmed (s : State) (o : Word) : (s.jump o).trapArmed = s.trapArmed := rfl

@[simp] theorem State.jump_pre (s : State) (o : Word) : (s.jump o).pre = s.pre := rfl

@[simp] theorem State.jump_lines (s : State) (o : Word) : (s.jump o).lines = s.lines := rfl

@[simp] theorem State.jump_bus (s : State) (o : Word) : (s.jump o).bus = s.bus := rfl

@[simp] theorem State.jump_queue (s : State) (o : Word) : (s.jump o).queue = [] := rfl

@[simp] theorem State.jump_text (s : State) (o : Word) : (s.jump o).text = s.text := rfl

@[simp] theorem State.jump_executed (s : State) (o : Word) : (s.jump o).executed = s.executed := rfl

@[simp] theorem State.jump_stored (s : State) (o : Word) : (s.jump o).stored = s.stored := rfl

@[simp] theorem State.jump_draws (s : State) (o : Word) : (s.jump o).draws = s.draws := rfl

@[simp] theorem State.jump_mem (s : State) (o : Word) : (s.jump o).mem = s.mem := rfl

/-! ### `jumpFar` -/

@[simp] theorem State.jumpFar_regs (s : State) (b o : Word) : (s.jumpFar b o).regs = s.regs := rfl

@[simp] theorem State.jumpFar_segs (s : State) (b o : Word) : (s.jumpFar b o).segs = s.segs.set .cs b := rfl

@[simp] theorem State.jumpFar_ip (s : State) (b o : Word) : (s.jumpFar b o).ip = o := rfl

@[simp] theorem State.jumpFar_thisIp (s : State) (b o : Word) : (s.jumpFar b o).thisIp = s.thisIp := rfl

@[simp] theorem State.jumpFar_flags (s : State) (b o : Word) : (s.jumpFar b o).flags = s.flags := rfl

@[simp] theorem State.jumpFar_halted (s : State) (b o : Word) : (s.jumpFar b o).halted = s.halted := rfl

@[simp] theorem State.jumpFar_waiting (s : State) (b o : Word) : (s.jumpFar b o).waiting = s.waiting := rfl

@[simp] theorem State.jumpFar_stiShadow (s : State) (b o : Word) : (s.jumpFar b o).stiShadow = s.stiShadow := rfl

@[simp] theorem State.jumpFar_segInhibit (s : State) (b o : Word) : (s.jumpFar b o).segInhibit = s.segInhibit := rfl

@[simp] theorem State.jumpFar_trapArmed (s : State) (b o : Word) : (s.jumpFar b o).trapArmed = s.trapArmed := rfl

@[simp] theorem State.jumpFar_pre (s : State) (b o : Word) : (s.jumpFar b o).pre = s.pre := rfl

@[simp] theorem State.jumpFar_lines (s : State) (b o : Word) : (s.jumpFar b o).lines = s.lines := rfl

@[simp] theorem State.jumpFar_bus (s : State) (b o : Word) : (s.jumpFar b o).bus = s.bus := rfl

@[simp] theorem State.jumpFar_queue (s : State) (b o : Word) : (s.jumpFar b o).queue = [] := rfl

@[simp] theorem State.jumpFar_text (s : State) (b o : Word) : (s.jumpFar b o).text = s.text := rfl

@[simp] theorem State.jumpFar_executed (s : State) (b o : Word) : (s.jumpFar b o).executed = s.executed := rfl

@[simp] theorem State.jumpFar_stored (s : State) (b o : Word) : (s.jumpFar b o).stored = s.stored := rfl

@[simp] theorem State.jumpFar_draws (s : State) (b o : Word) : (s.jumpFar b o).draws = s.draws := rfl

@[simp] theorem State.jumpFar_mem (s : State) (b o : Word) : (s.jumpFar b o).mem = s.mem := rfl

/-! ### `write8` -/

@[simp] theorem State.write8_regs (s : State) (r : SegReg) (o : Word) (v : Byte) : (s.write8 r o v).regs = s.regs := rfl

@[simp] theorem State.write8_segs (s : State) (r : SegReg) (o : Word) (v : Byte) : (s.write8 r o v).segs = s.segs := rfl

@[simp] theorem State.write8_ip (s : State) (r : SegReg) (o : Word) (v : Byte) : (s.write8 r o v).ip = s.ip := rfl

@[simp] theorem State.write8_thisIp (s : State) (r : SegReg) (o : Word) (v : Byte) : (s.write8 r o v).thisIp = s.thisIp := rfl

@[simp] theorem State.write8_flags (s : State) (r : SegReg) (o : Word) (v : Byte) : (s.write8 r o v).flags = s.flags := rfl

@[simp] theorem State.write8_halted (s : State) (r : SegReg) (o : Word) (v : Byte) : (s.write8 r o v).halted = s.halted := rfl

@[simp] theorem State.write8_waiting (s : State) (r : SegReg) (o : Word) (v : Byte) : (s.write8 r o v).waiting = s.waiting := rfl

@[simp] theorem State.write8_stiShadow (s : State) (r : SegReg) (o : Word) (v : Byte) : (s.write8 r o v).stiShadow = s.stiShadow := rfl

@[simp] theorem State.write8_segInhibit (s : State) (r : SegReg) (o : Word) (v : Byte) : (s.write8 r o v).segInhibit = s.segInhibit := rfl

@[simp] theorem State.write8_trapArmed (s : State) (r : SegReg) (o : Word) (v : Byte) : (s.write8 r o v).trapArmed = s.trapArmed := rfl

@[simp] theorem State.write8_pre (s : State) (r : SegReg) (o : Word) (v : Byte) : (s.write8 r o v).pre = s.pre := rfl

@[simp] theorem State.write8_lines (s : State) (r : SegReg) (o : Word) (v : Byte) : (s.write8 r o v).lines = s.lines := rfl

@[simp] theorem State.write8_bus (s : State) (r : SegReg) (o : Word) (v : Byte) : (s.write8 r o v).bus = s.bus := rfl

@[simp] theorem State.write8_queue (s : State) (r : SegReg) (o : Word) (v : Byte) : (s.write8 r o v).queue = s.queue := rfl

@[simp] theorem State.write8_text (s : State) (r : SegReg) (o : Word) (v : Byte) : (s.write8 r o v).text = s.text := rfl

@[simp] theorem State.write8_executed (s : State) (r : SegReg) (o : Word) (v : Byte) : (s.write8 r o v).executed = s.executed := rfl

@[simp] theorem State.write8_stored (s : State) (r : SegReg) (o : Word) (v : Byte) : (s.write8 r o v).stored = recorded s.stored (phys (s.segs.get r) o) := rfl

@[simp] theorem State.write8_draws (s : State) (r : SegReg) (o : Word) (v : Byte) : (s.write8 r o v).draws = s.draws := rfl

@[simp] theorem State.write8_mem (s : State) (r : SegReg) (o : Word) (v : Byte) : (s.write8 r o v).mem = s.mem.write (phys (s.segs.get r) o) v := rfl

/-! ### `write16` -/

@[simp] theorem State.write16_regs (s : State) (r : SegReg) (o v : Word) : (s.write16 r o v).regs = s.regs := rfl

@[simp] theorem State.write16_segs (s : State) (r : SegReg) (o v : Word) : (s.write16 r o v).segs = s.segs := rfl

@[simp] theorem State.write16_ip (s : State) (r : SegReg) (o v : Word) : (s.write16 r o v).ip = s.ip := rfl

@[simp] theorem State.write16_thisIp (s : State) (r : SegReg) (o v : Word) : (s.write16 r o v).thisIp = s.thisIp := rfl

@[simp] theorem State.write16_flags (s : State) (r : SegReg) (o v : Word) : (s.write16 r o v).flags = s.flags := rfl

@[simp] theorem State.write16_halted (s : State) (r : SegReg) (o v : Word) : (s.write16 r o v).halted = s.halted := rfl

@[simp] theorem State.write16_waiting (s : State) (r : SegReg) (o v : Word) : (s.write16 r o v).waiting = s.waiting := rfl

@[simp] theorem State.write16_stiShadow (s : State) (r : SegReg) (o v : Word) : (s.write16 r o v).stiShadow = s.stiShadow := rfl

@[simp] theorem State.write16_segInhibit (s : State) (r : SegReg) (o v : Word) : (s.write16 r o v).segInhibit = s.segInhibit := rfl

@[simp] theorem State.write16_trapArmed (s : State) (r : SegReg) (o v : Word) : (s.write16 r o v).trapArmed = s.trapArmed := rfl

@[simp] theorem State.write16_pre (s : State) (r : SegReg) (o v : Word) : (s.write16 r o v).pre = s.pre := rfl

@[simp] theorem State.write16_lines (s : State) (r : SegReg) (o v : Word) : (s.write16 r o v).lines = s.lines := rfl

@[simp] theorem State.write16_bus (s : State) (r : SegReg) (o v : Word) : (s.write16 r o v).bus = s.bus := rfl

@[simp] theorem State.write16_queue (s : State) (r : SegReg) (o v : Word) : (s.write16 r o v).queue = s.queue := rfl

@[simp] theorem State.write16_text (s : State) (r : SegReg) (o v : Word) : (s.write16 r o v).text = s.text := rfl

@[simp] theorem State.write16_executed (s : State) (r : SegReg) (o v : Word) : (s.write16 r o v).executed = s.executed := rfl

@[simp] theorem State.write16_stored (s : State) (r : SegReg) (o v : Word) : (s.write16 r o v).stored = recorded (recorded s.stored (phys (s.segs.get r) o)) (physHigh (s.segs.get r) o) := rfl

@[simp] theorem State.write16_draws (s : State) (r : SegReg) (o v : Word) : (s.write16 r o v).draws = s.draws := rfl

@[simp] theorem State.write16_mem (s : State) (r : SegReg) (o v : Word) : (s.write16 r o v).mem = s.mem.write16 (s.segs.get r) o v := rfl

/-! ### `push16` -/

@[simp] theorem State.push16_regs (s : State) (v : Word) : (s.push16 v).regs = { s.regs with sp := s.regs.sp - 2 } := rfl

@[simp] theorem State.push16_segs (s : State) (v : Word) : (s.push16 v).segs = s.segs := rfl

@[simp] theorem State.push16_ip (s : State) (v : Word) : (s.push16 v).ip = s.ip := rfl

@[simp] theorem State.push16_thisIp (s : State) (v : Word) : (s.push16 v).thisIp = s.thisIp := rfl

@[simp] theorem State.push16_flags (s : State) (v : Word) : (s.push16 v).flags = s.flags := rfl

@[simp] theorem State.push16_halted (s : State) (v : Word) : (s.push16 v).halted = s.halted := rfl

@[simp] theorem State.push16_waiting (s : State) (v : Word) : (s.push16 v).waiting = s.waiting := rfl

@[simp] theorem State.push16_stiShadow (s : State) (v : Word) : (s.push16 v).stiShadow = s.stiShadow := rfl

@[simp] theorem State.push16_segInhibit (s : State) (v : Word) : (s.push16 v).segInhibit = s.segInhibit := rfl

@[simp] theorem State.push16_trapArmed (s : State) (v : Word) : (s.push16 v).trapArmed = s.trapArmed := rfl

@[simp] theorem State.push16_pre (s : State) (v : Word) : (s.push16 v).pre = s.pre := rfl

@[simp] theorem State.push16_lines (s : State) (v : Word) : (s.push16 v).lines = s.lines := rfl

@[simp] theorem State.push16_bus (s : State) (v : Word) : (s.push16 v).bus = s.bus := rfl

@[simp] theorem State.push16_queue (s : State) (v : Word) : (s.push16 v).queue = s.queue := rfl

@[simp] theorem State.push16_text (s : State) (v : Word) : (s.push16 v).text = s.text := rfl

@[simp] theorem State.push16_executed (s : State) (v : Word) : (s.push16 v).executed = s.executed := rfl

@[simp] theorem State.push16_stored (s : State) (v : Word) : (s.push16 v).stored = recorded (recorded s.stored (phys s.segs.ss (s.regs.sp - 2))) (physHigh s.segs.ss (s.regs.sp - 2)) := rfl

@[simp] theorem State.push16_draws (s : State) (v : Word) : (s.push16 v).draws = s.draws := rfl

@[simp] theorem State.push16_mem (s : State) (v : Word) : (s.push16 v).mem = s.mem.write16 s.segs.ss (s.regs.sp - 2) v := rfl

/-! ### `dropTop` -/

@[simp] theorem State.dropTop_regs (s : State) : (s.dropTop).regs = { s.regs with sp := s.regs.sp + 2 } := rfl

@[simp] theorem State.dropTop_segs (s : State) : (s.dropTop).segs = s.segs := rfl

@[simp] theorem State.dropTop_ip (s : State) : (s.dropTop).ip = s.ip := rfl

@[simp] theorem State.dropTop_thisIp (s : State) : (s.dropTop).thisIp = s.thisIp := rfl

@[simp] theorem State.dropTop_flags (s : State) : (s.dropTop).flags = s.flags := rfl

@[simp] theorem State.dropTop_halted (s : State) : (s.dropTop).halted = s.halted := rfl

@[simp] theorem State.dropTop_waiting (s : State) : (s.dropTop).waiting = s.waiting := rfl

@[simp] theorem State.dropTop_stiShadow (s : State) : (s.dropTop).stiShadow = s.stiShadow := rfl

@[simp] theorem State.dropTop_segInhibit (s : State) : (s.dropTop).segInhibit = s.segInhibit := rfl

@[simp] theorem State.dropTop_trapArmed (s : State) : (s.dropTop).trapArmed = s.trapArmed := rfl

@[simp] theorem State.dropTop_pre (s : State) : (s.dropTop).pre = s.pre := rfl

@[simp] theorem State.dropTop_lines (s : State) : (s.dropTop).lines = s.lines := rfl

@[simp] theorem State.dropTop_bus (s : State) : (s.dropTop).bus = s.bus := rfl

@[simp] theorem State.dropTop_queue (s : State) : (s.dropTop).queue = s.queue := rfl

@[simp] theorem State.dropTop_text (s : State) : (s.dropTop).text = s.text := rfl

@[simp] theorem State.dropTop_executed (s : State) : (s.dropTop).executed = s.executed := rfl

@[simp] theorem State.dropTop_stored (s : State) : (s.dropTop).stored = s.stored := rfl

@[simp] theorem State.dropTop_draws (s : State) : (s.dropTop).draws = s.draws := rfl

@[simp] theorem State.dropTop_mem (s : State) : (s.dropTop).mem = s.mem := rfl

/-! ### `drawn` -/

@[simp] theorem State.drawn_regs (s : State) (k : Nat) : (s.drawn k).regs = s.regs := rfl

@[simp] theorem State.drawn_segs (s : State) (k : Nat) : (s.drawn k).segs = s.segs := rfl

@[simp] theorem State.drawn_ip (s : State) (k : Nat) : (s.drawn k).ip = s.ip := rfl

@[simp] theorem State.drawn_thisIp (s : State) (k : Nat) : (s.drawn k).thisIp = s.thisIp := rfl

@[simp] theorem State.drawn_flags (s : State) (k : Nat) : (s.drawn k).flags = s.flags := rfl

@[simp] theorem State.drawn_halted (s : State) (k : Nat) : (s.drawn k).halted = s.halted := rfl

@[simp] theorem State.drawn_waiting (s : State) (k : Nat) : (s.drawn k).waiting = s.waiting := rfl

@[simp] theorem State.drawn_stiShadow (s : State) (k : Nat) : (s.drawn k).stiShadow = s.stiShadow := rfl

@[simp] theorem State.drawn_segInhibit (s : State) (k : Nat) : (s.drawn k).segInhibit = s.segInhibit := rfl

@[simp] theorem State.drawn_trapArmed (s : State) (k : Nat) : (s.drawn k).trapArmed = s.trapArmed := rfl

@[simp] theorem State.drawn_pre (s : State) (k : Nat) : (s.drawn k).pre = s.pre := rfl

@[simp] theorem State.drawn_lines (s : State) (k : Nat) : (s.drawn k).lines = s.lines := rfl

@[simp] theorem State.drawn_bus (s : State) (k : Nat) : (s.drawn k).bus = s.bus := rfl

@[simp] theorem State.drawn_queue (s : State) (k : Nat) : (s.drawn k).queue = s.queue := rfl

@[simp] theorem State.drawn_text (s : State) (k : Nat) : (s.drawn k).text = s.text := rfl

@[simp] theorem State.drawn_executed (s : State) (k : Nat) : (s.drawn k).executed = s.executed := rfl

@[simp] theorem State.drawn_stored (s : State) (k : Nat) : (s.drawn k).stored = s.stored := rfl

@[simp] theorem State.drawn_draws (s : State) (k : Nat) : (s.drawn k).draws = s.draws + k := rfl

@[simp] theorem State.drawn_mem (s : State) (k : Nat) : (s.drawn k).mem = s.mem := rfl

/-! ### `afterPortRead` -/

@[simp] theorem State.afterPortRead_regs (s : State) (p : Word) (w : Width) (v : Word) : (s.afterPortRead p w v).regs = s.regs := rfl

@[simp] theorem State.afterPortRead_segs (s : State) (p : Word) (w : Width) (v : Word) : (s.afterPortRead p w v).segs = s.segs := rfl

@[simp] theorem State.afterPortRead_ip (s : State) (p : Word) (w : Width) (v : Word) : (s.afterPortRead p w v).ip = s.ip := rfl

@[simp] theorem State.afterPortRead_thisIp (s : State) (p : Word) (w : Width) (v : Word) : (s.afterPortRead p w v).thisIp = s.thisIp := rfl

@[simp] theorem State.afterPortRead_flags (s : State) (p : Word) (w : Width) (v : Word) : (s.afterPortRead p w v).flags = s.flags := rfl

@[simp] theorem State.afterPortRead_halted (s : State) (p : Word) (w : Width) (v : Word) : (s.afterPortRead p w v).halted = s.halted := rfl

@[simp] theorem State.afterPortRead_waiting (s : State) (p : Word) (w : Width) (v : Word) : (s.afterPortRead p w v).waiting = s.waiting := rfl

@[simp] theorem State.afterPortRead_stiShadow (s : State) (p : Word) (w : Width) (v : Word) : (s.afterPortRead p w v).stiShadow = s.stiShadow := rfl

@[simp] theorem State.afterPortRead_segInhibit (s : State) (p : Word) (w : Width) (v : Word) : (s.afterPortRead p w v).segInhibit = s.segInhibit := rfl

@[simp] theorem State.afterPortRead_trapArmed (s : State) (p : Word) (w : Width) (v : Word) : (s.afterPortRead p w v).trapArmed = s.trapArmed := rfl

@[simp] theorem State.afterPortRead_pre (s : State) (p : Word) (w : Width) (v : Word) : (s.afterPortRead p w v).pre = s.pre := rfl

@[simp] theorem State.afterPortRead_lines (s : State) (p : Word) (w : Width) (v : Word) : (s.afterPortRead p w v).lines = s.lines := rfl

@[simp] theorem State.afterPortRead_bus (s : State) (p : Word) (w : Width) (v : Word) : (s.afterPortRead p w v).bus = .portRead p w v :: s.bus := rfl

@[simp] theorem State.afterPortRead_queue (s : State) (p : Word) (w : Width) (v : Word) : (s.afterPortRead p w v).queue = s.queue := rfl

@[simp] theorem State.afterPortRead_text (s : State) (p : Word) (w : Width) (v : Word) : (s.afterPortRead p w v).text = s.text := rfl

@[simp] theorem State.afterPortRead_executed (s : State) (p : Word) (w : Width) (v : Word) : (s.afterPortRead p w v).executed = s.executed := rfl

@[simp] theorem State.afterPortRead_stored (s : State) (p : Word) (w : Width) (v : Word) : (s.afterPortRead p w v).stored = s.stored := rfl

@[simp] theorem State.afterPortRead_draws (s : State) (p : Word) (w : Width) (v : Word) : (s.afterPortRead p w v).draws = s.draws + 1 := rfl

@[simp] theorem State.afterPortRead_mem (s : State) (p : Word) (w : Width) (v : Word) : (s.afterPortRead p w v).mem = s.mem := rfl

/-! ### `portOut` -/

@[simp] theorem State.portOut_regs (s : State) (p : Word) (w : Width) (v : Word) : (s.portOut p w v).regs = s.regs := rfl

@[simp] theorem State.portOut_segs (s : State) (p : Word) (w : Width) (v : Word) : (s.portOut p w v).segs = s.segs := rfl

@[simp] theorem State.portOut_ip (s : State) (p : Word) (w : Width) (v : Word) : (s.portOut p w v).ip = s.ip := rfl

@[simp] theorem State.portOut_thisIp (s : State) (p : Word) (w : Width) (v : Word) : (s.portOut p w v).thisIp = s.thisIp := rfl

@[simp] theorem State.portOut_flags (s : State) (p : Word) (w : Width) (v : Word) : (s.portOut p w v).flags = s.flags := rfl

@[simp] theorem State.portOut_halted (s : State) (p : Word) (w : Width) (v : Word) : (s.portOut p w v).halted = s.halted := rfl

@[simp] theorem State.portOut_waiting (s : State) (p : Word) (w : Width) (v : Word) : (s.portOut p w v).waiting = s.waiting := rfl

@[simp] theorem State.portOut_stiShadow (s : State) (p : Word) (w : Width) (v : Word) : (s.portOut p w v).stiShadow = s.stiShadow := rfl

@[simp] theorem State.portOut_segInhibit (s : State) (p : Word) (w : Width) (v : Word) : (s.portOut p w v).segInhibit = s.segInhibit := rfl

@[simp] theorem State.portOut_trapArmed (s : State) (p : Word) (w : Width) (v : Word) : (s.portOut p w v).trapArmed = s.trapArmed := rfl

@[simp] theorem State.portOut_pre (s : State) (p : Word) (w : Width) (v : Word) : (s.portOut p w v).pre = s.pre := rfl

@[simp] theorem State.portOut_lines (s : State) (p : Word) (w : Width) (v : Word) : (s.portOut p w v).lines = s.lines := rfl

@[simp] theorem State.portOut_bus (s : State) (p : Word) (w : Width) (v : Word) : (s.portOut p w v).bus = .portWrite p w v :: s.bus := rfl

@[simp] theorem State.portOut_queue (s : State) (p : Word) (w : Width) (v : Word) : (s.portOut p w v).queue = s.queue := rfl

@[simp] theorem State.portOut_text (s : State) (p : Word) (w : Width) (v : Word) : (s.portOut p w v).text = s.text := rfl

@[simp] theorem State.portOut_executed (s : State) (p : Word) (w : Width) (v : Word) : (s.portOut p w v).executed = s.executed := rfl

@[simp] theorem State.portOut_stored (s : State) (p : Word) (w : Width) (v : Word) : (s.portOut p w v).stored = s.stored := rfl

@[simp] theorem State.portOut_draws (s : State) (p : Word) (w : Width) (v : Word) : (s.portOut p w v).draws = s.draws := rfl

@[simp] theorem State.portOut_mem (s : State) (p : Word) (w : Width) (v : Word) : (s.portOut p w v).mem = s.mem := rfl

/-! ### `saveFlags` -/

@[simp] theorem State.saveFlags_regs (s : State) : (s.saveFlags).regs = { s.regs with sp := s.regs.sp - 2 } := rfl

@[simp] theorem State.saveFlags_segs (s : State) : (s.saveFlags).segs = s.segs := rfl

@[simp] theorem State.saveFlags_ip (s : State) : (s.saveFlags).ip = s.ip := rfl

@[simp] theorem State.saveFlags_thisIp (s : State) : (s.saveFlags).thisIp = s.thisIp := rfl

@[simp] theorem State.saveFlags_flags (s : State) : (s.saveFlags).flags = { s.flags with IF := false, TF := false } := rfl

@[simp] theorem State.saveFlags_halted (s : State) : (s.saveFlags).halted = s.halted := rfl

@[simp] theorem State.saveFlags_waiting (s : State) : (s.saveFlags).waiting = s.waiting := rfl

@[simp] theorem State.saveFlags_stiShadow (s : State) : (s.saveFlags).stiShadow = s.stiShadow := rfl

@[simp] theorem State.saveFlags_segInhibit (s : State) : (s.saveFlags).segInhibit = s.segInhibit := rfl

@[simp] theorem State.saveFlags_trapArmed (s : State) : (s.saveFlags).trapArmed = s.trapArmed := rfl

@[simp] theorem State.saveFlags_pre (s : State) : (s.saveFlags).pre = s.pre := rfl

@[simp] theorem State.saveFlags_lines (s : State) : (s.saveFlags).lines = s.lines := rfl

@[simp] theorem State.saveFlags_bus (s : State) : (s.saveFlags).bus = s.bus := rfl

@[simp] theorem State.saveFlags_queue (s : State) : (s.saveFlags).queue = s.queue := rfl

@[simp] theorem State.saveFlags_text (s : State) : (s.saveFlags).text = s.text := rfl

@[simp] theorem State.saveFlags_executed (s : State) : (s.saveFlags).executed = s.executed := rfl

@[simp] theorem State.saveFlags_stored (s : State) : (s.saveFlags).stored = recorded (recorded s.stored (phys s.segs.ss (s.regs.sp - 2))) (physHigh s.segs.ss (s.regs.sp - 2)) := rfl

@[simp] theorem State.saveFlags_draws (s : State) : (s.saveFlags).draws = s.draws := rfl

@[simp] theorem State.saveFlags_mem (s : State) : (s.saveFlags).mem = s.mem.write16 s.segs.ss (s.regs.sp - 2) s.flags.toWord := rfl

end Sys2Proof.Machine
end

