-- ==== Sys2Proof/Laws/Registers.lean ====
section
/-! SUPPORT. Reading a register after writing one, and the FLAGS word (10_state.md R20, R21, R25). -/

namespace Sys2Proof.Machine

/-! ### General and segment registers -/

theorem Regs.get_set (g : Regs) (r q : Reg16) (v : Word) : (g.set r v).get q = if q = r then v else g.get q := by
  cases r <;> cases q <;> rfl

@[simp] theorem Regs.get_set_self (g : Regs) (r : Reg16) (v : Word) : (g.set r v).get r = v := by
  cases r <;> rfl

theorem Segs.get_set (g : Segs) (r q : SegReg) (v : Word) : (g.set r v).get q = if q = r then v else g.get q := by
  cases r <;> cases q <;> rfl

@[simp] theorem Segs.get_set_self (g : Segs) (r : SegReg) (v : Word) : (g.set r v).get r = v := by
  cases r <;> rfl

theorem Regs.ext_get {g h : Regs} (e : ∀ r, g.get r = h.get r) : g = h := by
  have h0 := e .ax; have h1 := e .cx; have h2 := e .dx; have h3 := e .bx
  have h4 := e .sp; have h5 := e .bp; have h6 := e .si; have h7 := e .di
  cases g; cases h; simp_all [Regs.get]

/-! ### Bytes of a word -/

@[simp] theorem Byte.pair_lo (h l : Byte) : (Byte.pair h l).lo = l := by
  apply BitVec.eq_of_getLsbD_eq; intro i hi
  simp only [Byte.pair, Word.lo, BitVec.getLsbD_extractLsb', BitVec.getLsbD_append]
  simp [hi]

@[simp] theorem Byte.pair_hi (h l : Byte) : (Byte.pair h l).hi = h := by
  apply BitVec.eq_of_getLsbD_eq; intro i hi
  simp only [Byte.pair, Word.hi, BitVec.getLsbD_extractLsb', BitVec.getLsbD_append]
  simp [hi]

@[simp] theorem Word.pair_hi_lo (w : Word) : Byte.pair w.hi w.lo = w := by
  apply BitVec.eq_of_getLsbD_eq; intro i hi
  simp only [Byte.pair, Word.hi, Word.lo, BitVec.getLsbD_append, BitVec.getLsbD_extractLsb']
  by_cases h : i < 8
  · simp [h]
  · have h1 : i - 8 < 8 := by omega
    have h2 : 8 + (i - 8) = i := by omega
    simp [h, h1, h2]

/-! ### Byte registers -/

/-- The two halves of a register determine each other's places. -/
theorem State.reg8_setReg8 (s : State) (r q : Reg8) (v : Byte) :
    (s.setReg8 r v).reg8 q = if q = r then v else s.reg8 q := by
  cases r <;> cases q <;>
    simp [State.setReg8, State.reg8, State.reg, Reg8.parent, Reg8.isHigh, Regs.get, Regs.set]

@[simp] theorem State.reg8_setReg8_self (s : State) (r : Reg8) (v : Byte) : (s.setReg8 r v).reg8 r = v := by
  simp [State.reg8_setReg8]

/-- A byte register write leaves every other 16-bit register alone. -/
theorem State.reg_setReg8_ne (s : State) (r : Reg8) (v : Byte) {q : Reg16} (h : q ≠ Reg8.parent r) :
    (s.setReg8 r v).reg q = s.reg q := by
  simp [State.setReg8, State.reg, Regs.get_set, h]

/-! ### The FLAGS word -/

/-- What a pushed flag word loads back is the flags it was made from, whatever `FLAGS_RESERVED` is. -/
@[simp] theorem Flags.ofWord_toWord (f : Flags) : Flags.ofWord f.toWord = f := by
  cases f with
  | mk AF CF DF IF OF PF SF TF ZF =>
    simp only [Flags.ofWord, Flags.toWord, BitVec.getLsbD_or, BitVec.getLsbD_and]
    have at_ : ∀ (b : Bool) (n k : Nat), n < 16 → (flagAt b n).getLsbD k = (b && decide (n = k)) := by
      intro b n k hn; cases b <;> simp [flagAt, BitVec.getLsbD_twoPow, hn]
    simp [at_, -BitVec.getLsbD_eq_getElem]

end Sys2Proof.Machine
end

