-- ==== Sys2Proof/Laws/Memory.lean ====
section
/-! SUPPORT. The laws of memory: a read after a write, the canonical form, and words as two bytes (20_memory.md R50 to R53). -/

namespace Sys2Proof.Machine

/-! ### Bytes -/

theorem Memory.read_erase (m : Memory) (a b : Nat) :
    (Memory.erase m a).read b = if b = a then Memory.unlisted else m.read b := by
  induction m with
  | nil => simp [Memory.erase, Memory.read]
  | cons c t ih =>
    obtain ⟨k, v⟩ := c
    by_cases hk : k = a
    · subst hk
      by_cases hb : b = k
      · subst hb; simpa [Memory.erase] using ih
      · have : ¬ k = b := fun h => hb h.symm
        simp [Memory.erase, ih, hb, Memory.read, this]
    · by_cases hb : k = b
      · subst hb; simp [Memory.erase, hk, Memory.read]
      · simp [Memory.erase, hk, Memory.read, hb, ih]

theorem Memory.read_insert (m : Memory) (a b : Nat) (v : Byte) (h : ∀ c ∈ m, c.1 ≠ a) :
    (Memory.insert m a v).read b = if b = a then v else m.read b := by
  induction m with
  | nil =>
    by_cases hb : b = a
    · simp [Memory.insert, Memory.read, hb]
    · have : ¬ a = b := fun e => hb e.symm
      simp [Memory.insert, Memory.read, hb, this]
  | cons c t ih =>
    obtain ⟨k, w⟩ := c
    have hk : k ≠ a := h (k, w) (by simp)
    have ht : ∀ c ∈ t, c.1 ≠ a := fun c hc => h c (by simp [hc])
    by_cases hlt : a < k
    · by_cases hb : b = a
      · simp [Memory.insert, hlt, Memory.read, hb]
      · have : ¬ a = b := fun e => hb e.symm
        simp [Memory.insert, hlt, Memory.read, hb, this]
    · by_cases hb : k = b
      · subst hb; simp [Memory.insert, hlt, Memory.read, hk]
      · simp [Memory.insert, hlt, Memory.read, hb, ih ht]

theorem Memory.not_mem_erase (m : Memory) (a : Nat) : ∀ c ∈ Memory.erase m a, c.1 ≠ a := by
  induction m with
  | nil => simp [Memory.erase]
  | cons c t ih =>
    obtain ⟨k, v⟩ := c
    by_cases hk : k = a
    · simpa [Memory.erase, hk] using ih
    · intro c hc
      simp only [Memory.erase, hk, if_false, List.mem_cons] at hc
      rcases hc with rfl | hc
      · exact hk
      · exact ih c hc

/-- Reading after a write: the written byte at its address, every other byte as before. -/
theorem Memory.read_write (m : Memory) (a b : Nat) (v : Byte) :
    (m.write a v).read b = if b = a then v else m.read b := by
  unfold Memory.write
  by_cases hv : v = Memory.unlisted
  · simp [hv, Memory.read_erase]
  · rw [if_neg hv, Memory.read_insert _ _ _ _ (Memory.not_mem_erase m a), Memory.read_erase]
    by_cases hb : b = a <;> simp [hb]

@[simp] theorem Memory.read_write_same (m : Memory) (a : Nat) (v : Byte) : (m.write a v).read a = v := by
  simp [Memory.read_write]

theorem Memory.read_write_ne (m : Memory) {a b : Nat} (v : Byte) (h : b ≠ a) : (m.write a v).read b = m.read b := by
  simp [Memory.read_write, h]

/-! ### The canonical form -/

theorem Memory.wfFrom_mono {lo lo' : Nat} (h : lo ≤ lo') (m : Memory) (w : Memory.wfFrom lo' m = true) :
    Memory.wfFrom lo m = true := by
  cases m with
  | nil => rfl
  | cons c t =>
    obtain ⟨k, v⟩ := c
    simp only [Memory.wfFrom, Bool.and_eq_true, decide_eq_true_eq] at w ⊢
    exact ⟨⟨⟨by omega, w.1.1.2⟩, w.1.2⟩, w.2⟩

theorem Memory.wfFrom_erase (m : Memory) (a lo : Nat) (w : Memory.wfFrom lo m = true) :
    Memory.wfFrom lo (Memory.erase m a) = true := by
  induction m generalizing lo with
  | nil => rfl
  | cons c t ih =>
    obtain ⟨k, v⟩ := c
    simp only [Memory.wfFrom, Bool.and_eq_true, decide_eq_true_eq] at w
    by_cases hk : k = a
    · simp only [Memory.erase, hk, if_true]
      exact Memory.wfFrom_mono (by omega) _ (ih (k + 1) w.2)
    · simp only [Memory.erase, hk, if_false, Memory.wfFrom, Bool.and_eq_true, decide_eq_true_eq]
      exact ⟨w.1, ih (k + 1) w.2⟩

theorem Memory.wfFrom_insert (m : Memory) (a lo : Nat) (v : Byte) (w : Memory.wfFrom lo m = true) (hlo : lo ≤ a)
    (ha : a < Memory.size) (hv : v ≠ Memory.unlisted) (hm : ∀ c ∈ m, c.1 ≠ a) :
    Memory.wfFrom lo (Memory.insert m a v) = true := by
  induction m generalizing lo with
  | nil => simp [Memory.insert, Memory.wfFrom, hlo, ha, hv]
  | cons c t ih =>
    obtain ⟨k, x⟩ := c
    simp only [Memory.wfFrom, Bool.and_eq_true, decide_eq_true_eq] at w
    have hk : k ≠ a := hm (k, x) (by simp)
    by_cases hlt : a < k
    · simp only [Memory.insert, hlt, if_true, Memory.wfFrom, Bool.and_eq_true, decide_eq_true_eq]
      exact ⟨⟨⟨hlo, ha⟩, hv⟩, ⟨⟨by omega, w.1.1.2⟩, w.1.2⟩, w.2⟩
    · simp only [Memory.insert, hlt, if_false, Memory.wfFrom, Bool.and_eq_true, decide_eq_true_eq]
      exact ⟨w.1, ih (k + 1) w.2 (by omega) fun c hc => hm c (by simp [hc])⟩

/-- A write below the size keeps the canonical form. -/
theorem Memory.wf_write {m : Memory} {a : Nat} (v : Byte) (w : m.wf = true) (ha : a < Memory.size) :
    (m.write a v).wf = true := by
  unfold Memory.write Memory.wf
  by_cases hv : v = Memory.unlisted
  · simp only [hv, if_true]; exact Memory.wfFrom_erase m a 0 w
  · simp only [hv, if_false]
    exact Memory.wfFrom_insert _ a 0 v (Memory.wfFrom_erase m a 0 w) (Nat.zero_le _) ha hv (Memory.not_mem_erase m a)

theorem Memory.size_pos : 0 < Memory.size := by decide

/-- Every physical address is below the size (20_memory.md R51). -/
theorem phys_lt (b o : Word) : phys b o < Memory.size := Nat.mod_lt _ Memory.size_pos

theorem physHigh_lt (b o : Word) : physHigh b o < Memory.size := by
  unfold physHigh
  split
  · split
    · exact phys_lt _ _
    · exact Nat.mod_lt _ Memory.size_pos
  · exact phys_lt _ _

/-- A word write keeps the canonical form. -/
theorem Memory.wf_write16 {m : Memory} (b o v : Word) (w : m.wf = true) : (m.write16 b o v).wf = true :=
  Memory.wf_write _ (Memory.wf_write _ w (phys_lt b o)) (physHigh_lt b o)

/-- The memory of the state after reset has the canonical form. -/
theorem State.reset_mem_wf : State.reset.mem.wf = true := rfl

/-! ### Words -/

/-- The two bytes of a word are at two addresses, at every offset and whatever `WORD_AT_FFFF` is. -/
theorem physHigh_ne_phys (b o : Word) : physHigh b o ≠ phys b o := by
  have hs : Memory.size = 1048576 := rfl
  have hb := b.isLt
  have ho := o.isLt
  unfold physHigh
  split
  · next h =>
    subst h
    split
    · simp only [phys, hs]; simp; omega
    · simp only [phys, hs]; simp; omega
  · next h =>
    have h1 : (o + 1).toNat = o.toNat + 1 := by
      have : o.toNat ≠ 65535 := fun e => h (BitVec.eq_of_toNat_eq (by simpa using e))
      simp [BitVec.toNat_add]; omega
    simp only [phys, hs, h1]; omega

/-- Reading the word just written gives it. -/
@[simp] theorem Memory.read16_write16_same (m : Memory) (b o v : Word) : (m.write16 b o v).read16 b o = v := by
  simp [Memory.read16, Memory.write16, Memory.read_write, (physHigh_ne_phys b o).symm]

/-- A word write changes its two bytes and no other. -/
theorem Memory.read_write16 (m : Memory) (b o v : Word) (a : Nat) :
    (m.write16 b o v).read a = if a = physHigh b o then v.hi else if a = phys b o then v.lo else m.read a := by
  simp [Memory.write16, Memory.read_write]

theorem Memory.read_write16_ne (m : Memory) (b o v : Word) {a : Nat} (h1 : a ≠ phys b o) (h2 : a ≠ physHigh b o) :
    (m.write16 b o v).read a = m.read a := by
  simp [Memory.read_write16, h1, h2]

end Sys2Proof.Machine
end

