-- ==== Sys2Proof/Laws/Ops.lean ====
section
/-! SUPPORT. What each shared operation does, once: words that do not overlap, writing an operand, the interrupt sequence and
its return, the count of a shift. -/

namespace Sys2Proof.Machine

/-! ### Words at different offsets -/

theorem phys_inj {b o o' : Word} (h : phys b o = phys b o') : o = o' := by
  have hs : Memory.size = 1048576 := rfl
  have ho := o.isLt
  have ho' := o'.isLt
  apply BitVec.eq_of_toNat_eq
  simp only [phys, hs] at h
  omega

/-- The high byte of a word at offset `o` lies at no offset of the segment but `o + 1`. -/
theorem physHigh_ne {b o q : Word} (h : o + 1 ≠ q) : physHigh b o ≠ phys b q := by
  have hs : Memory.size = 1048576 := rfl
  have hq := q.isLt
  unfold physHigh
  split
  · next e =>
    subst e
    split
    · exact fun e => h (phys_inj e)
    · simp only [phys, hs]; simp; omega
  · exact fun e => h (phys_inj e)

theorem physHigh_inj {b o o' : Word} (h : physHigh b o = physHigh b o') : o = o' := by
  by_cases h1 : o' = 0xFFFF
  · by_cases h2 : o = 0xFFFF
    · rw [h1, h2]
    · exfalso
      have e : physHigh b o = phys b (o + 1) := by unfold physHigh; rw [if_neg h2]
      rw [e] at h
      by_cases h3 : o' + 1 = o + 1
      · exact h2 (by rw [← h1]; bv_omega)
      · exact physHigh_ne h3 h.symm
  · have e : physHigh b o' = phys b (o' + 1) := by unfold physHigh; rw [if_neg h1]
    rw [e] at h
    by_cases h3 : o + 1 = o' + 1
    · bv_omega
    · exact absurd h (physHigh_ne h3)

/-- A word write leaves a word at an offset that is not adjacent alone, whatever `WORD_AT_FFFF` is. -/
theorem Memory.read16_write16_ne (m : Memory) (b o q v : Word) (h1 : o ≠ q) (h2 : o + 1 ≠ q) (h3 : q + 1 ≠ o) :
    (m.write16 b o v).read16 b q = m.read16 b q := by
  have a1 : phys b q ≠ phys b o := fun e => h1 (phys_inj e).symm
  have a2 : phys b q ≠ physHigh b o := fun e => physHigh_ne h2 e.symm
  have a3 : physHigh b q ≠ phys b o := physHigh_ne h3
  have a4 : physHigh b q ≠ physHigh b o := fun e => h1 (physHigh_inj e).symm
  simp only [Memory.read16, Memory.read_write16_ne _ _ _ _ a1 a2, Memory.read_write16_ne _ _ _ _ a3 a4]

/-! ### The record of stores -/

@[simp] theorem mem_recorded (l : List Nat) (a b : Nat) : b ∈ recorded l a ↔ b = a ∨ b ∈ l := by
  by_cases h : a ∈ l
  · have e : recorded l a = l := by simp [recorded, h]
    rw [e]
    exact ⟨.inr, fun k => k.elim (fun e => e ▸ h) id⟩
  · simp [recorded, h]

/-- A record only grows, at its head. -/
theorem recorded_suffix (l : List Nat) (a : Nat) : l <:+ recorded l a := by
  unfold recorded; split
  · exact List.suffix_rfl
  · exact List.suffix_cons a l

theorem mem_foldl_recorded (x l : List Nat) (a : Nat) : a ∈ x.foldl recorded l ↔ a ∈ x ∨ a ∈ l := by
  induction x generalizing l with
  | nil => simp
  | cons b x ih => simp only [List.foldl_cons, ih, mem_recorded, List.mem_cons]; tauto

/-! ### Writing an operand -/

/-- Two states that agree on all an operand's address and the frame speak of. -/
def State.agrees (s u : State) : Prop :=
  u.regs = s.regs ∧ u.segs = s.segs ∧ u.mem = s.mem ∧ u.pre = s.pre ∧ u.thisIp = s.thisIp ∧ u.halted = s.halted ∧
    u.waiting = s.waiting ∧ u.stiShadow = s.stiShadow ∧ u.segInhibit = s.segInhibit ∧ u.trapArmed = s.trapArmed ∧
    u.lines = s.lines ∧ u.text = s.text ∧ u.executed = s.executed ∧ u.stored = s.stored

theorem State.agrees_refl (s : State) : s.agrees s := by simp [State.agrees]

theorem State.agrees_setFlags (s : State) (f : Flags) : s.agrees (s.setFlags f) := by simp [State.agrees]

theorem State.agrees_setFlags_drawn (s : State) (f : Flags) (k : Nat) : s.agrees ((s.setFlags f).drawn k) := by
  simp [State.agrees]

theorem State.agrees_keeps {s u : State} (h : s.agrees u) : s.keeps u [] [] [] := by
  obtain ⟨h1, h2, h3, h4, h5, h6, h7, h8, h9, h10, h11, h12, h13, h14⟩ := h
  simp [State.keeps, State.reg, State.seg, h1, h2, h3, h4, h5, h6, h7, h8, h9, h10, h11, h12, h13, h14]

theorem State.agrees_setReg_keeps {s u : State} (h : s.agrees u) (r : Reg16) (v : Word) :
    s.keeps (u.setReg r v) [r] [] [] := by
  obtain ⟨h1, h2, h3, h4, h5, h6, h7, h8, h9, h10, h11, h12, h13, h14⟩ := h
  refine ⟨fun q hq => ?_, ?_⟩
  · have : q ≠ r := by simpa using hq
    simp [State.reg, Regs.get_set, this, h1]
  · simp [State.seg, h2, h3, h4, h5, h6, h7, h8, h9, h10, h11, h12, h13, h14]

theorem State.agrees_setReg8 {s u : State} (h : s.agrees u) (r : Reg8) (v : Byte) :
    s.puts8 (u.setReg8 r v) (.reg r) v := by
  refine ⟨⟨State.reg8_setReg8_self u r v, fun q hq => ?_⟩, ?_⟩
  · rw [State.reg8_setReg8, if_neg hq]; simp [State.reg8, State.reg, h.1]
  · exact State.agrees_setReg_keeps h _ _

/-- Writing a byte operand, in a state that agrees with the one its address is taken in. -/
theorem State.writeRM8_puts {s u : State} (h : s.agrees u) (d : RM8) (v : Byte) : s.puts8 (u.writeRM8 d v) d v := by
  cases d with
  | reg r => exact State.agrees_setReg8 h r v
  | mem m =>
    obtain ⟨h1, h2, h3, h4, h5, h6, h7, h8, h9, h10, h11, h12, h13, h14⟩ := h
    have ea : u.ea m = s.ea m := by cases m <;> simp [State.ea, h1]
    have sg : u.segOf m = s.segOf m := by simp [State.segOf, State.segFor, h4]
    refine ⟨?_, ?_⟩
    · simp [State.holds8, State.writeRM8, State.writeMem8, ea, sg, State.seg, h2]
    · refine ⟨fun r _ => ?_, fun r _ => ?_, fun a ha => ?_, ?_⟩
      · simp [State.writeRM8, State.writeMem8, State.reg, h1]
      · simp [State.writeRM8, State.writeMem8, State.seg, h2]
      · have hne : a ≠ phys (s.seg (s.segOf m)) (s.ea m) := by simpa [RM8.bytes] using ha
        simp only [State.writeRM8, State.writeMem8, State.write8_mem, ea, sg, h2, h3]
        exact Memory.read_write_ne _ _ hne
      · simp [State.writeRM8, State.writeMem8, h4, h5, h6, h7, h8, h9, h10, h11, h12, h13, h14, RM8.bytes, ea, sg, State.seg, h2]

/-- Writing a word operand, in a state that agrees with the one its address is taken in. -/
theorem State.writeRM16_puts {s u : State} (h : s.agrees u) (d : RM16) (v : Word) :
    s.puts16 (u.writeRM16 d v) d v := by
  cases d with
  | reg r =>
    refine ⟨?_, State.agrees_setReg_keeps h r v⟩
    simp [State.holds16, State.writeRM16, State.reg]
  | mem m =>
    obtain ⟨h1, h2, h3, h4, h5, h6, h7, h8, h9, h10, h11, h12, h13, h14⟩ := h
    have ea : u.ea m = s.ea m := by cases m <;> simp [State.ea, h1]
    have sg : u.segOf m = s.segOf m := by simp [State.segOf, State.segFor, h4]
    refine ⟨?_, ?_⟩
    · simp [State.holds16, State.writeRM16, State.writeMem16, ea, sg, State.seg, h2]
    · refine ⟨fun r _ => ?_, fun r _ => ?_, fun a ha => ?_, ?_⟩
      · simp [State.writeRM16, State.writeMem16, State.reg, h1]
      · simp [State.writeRM16, State.writeMem16, State.seg, h2]
      · have hne : a ≠ phys (s.seg (s.segOf m)) (s.ea m) ∧ a ≠ physHigh (s.seg (s.segOf m)) (s.ea m) := by
          simpa [RM16.bytes, State.wordBytes] using ha
        simp only [State.writeRM16, State.writeMem16, State.write16_mem, ea, sg, h2, h3]
        exact Memory.read_write16_ne _ _ _ _ hne.1 hne.2
      · simp [State.writeRM16, State.writeMem16, h4, h5, h6, h7, h8, h9, h10, h11, h12, h13, h14, RM16.bytes, State.wordBytes, ea,
          sg, State.seg, h2, or_left_comm, or_assoc]

/-- Writing an operand goes on. -/
theorem State.writeRM8_goesOn {s u : State} (h : s.goesOn u) (d : RM8) (v : Byte) : s.goesOn (u.writeRM8 d v) := by
  obtain ⟨h1, h2, h3⟩ := h
  cases d <;> simp [State.goesOn, State.writeRM8, State.writeMem8, h1, h2, h3]

theorem State.writeRM16_goesOn {s u : State} (h : s.goesOn u) (d : RM16) (v : Word) : s.goesOn (u.writeRM16 d v) := by
  obtain ⟨h1, h2, h3⟩ := h
  cases d <;> simp [State.goesOn, State.writeRM16, State.writeMem16, h1, h2, h3]

@[simp] theorem State.writeRM8_flags (s : State) (d : RM8) (v : Byte) : (s.writeRM8 d v).flags = s.flags := by
  cases d <;> rfl

@[simp] theorem State.writeRM16_flags (s : State) (d : RM16) (v : Word) : (s.writeRM16 d v).flags = s.flags := by
  cases d <;> rfl

/-! ### The interrupt sequence and its return -/

/-- `s.interrupt t ret` is what `State.entered` says of the interrupt sequence. -/
theorem State.interrupt_entered (s : State) (t : Byte) (ret : Word) (opened : List Reg16) :
    s.entered (s.interrupt t ret) t s.flags ret opened := by
  have hm : (s.interrupt t ret).mem = s.memThreePushed s.flags ret := by
    simp only [State.interrupt, State.memThreePushed, State.memTwoPushed, State.jump_mem, State.push16_mem,
      State.setSeg_mem, State.saveFlags_mem, State.setSeg_segs, State.push16_segs, State.saveFlags_segs,
      State.setSeg_regs, State.push16_regs, State.saveFlags_regs, Segs.set]
    have e4 : s.regs.sp - 2 - 2 = s.regs.sp - 4 := by bv_omega
    have e6 : s.regs.sp - 4 - 2 = s.regs.sp - 6 := by bv_omega
    rw [e4, e6]
  have hs : (s.interrupt t ret).stored =
      recorded (recorded (recorded (recorded (recorded (recorded s.stored (phys s.segs.ss (s.regs.sp - 2)))
        (physHigh s.segs.ss (s.regs.sp - 2))) (phys s.segs.ss (s.regs.sp - 4))) (physHigh s.segs.ss (s.regs.sp - 4)))
        (phys s.segs.ss (s.regs.sp - 6))) (physHigh s.segs.ss (s.regs.sp - 6)) := by
    have e4 : s.regs.sp - 4 = s.regs.sp - 2 - 2 := by bv_omega
    have e6 : s.regs.sp - 6 = s.regs.sp - 2 - 2 - 2 := by bv_omega
    rw [e4, e6]; rfl
  refine ⟨?_, ?_, ?_, ?_, ?_, ?_, rfl, rfl, rfl, rfl, rfl, ?_, ?_, ?_, rfl, rfl, rfl, rfl, rfl, rfl, rfl, rfl, rfl, rfl, ?_⟩
  · show s.regs.sp - 2 - 2 - 2 = s.regs.sp - 6
    bv_omega
  · show (s.interrupt t ret).mem.read16 s.segs.ss (s.regs.sp - 2) = _
    rw [hm]
    simp only [State.memThreePushed, State.memTwoPushed]
    rw [Memory.read16_write16_ne _ _ _ _ _ (by bv_omega) (by bv_omega) (by bv_omega),
      Memory.read16_write16_ne _ _ _ _ _ (by bv_omega) (by bv_omega) (by bv_omega), Memory.read16_write16_same]
  · show (s.interrupt t ret).mem.read16 s.segs.ss (s.regs.sp - 4) = _
    rw [hm]
    simp only [State.memThreePushed, State.memTwoPushed]
    rw [Memory.read16_write16_ne _ _ _ _ _ (by bv_omega) (by bv_omega) (by bv_omega), Memory.read16_write16_same]
    rfl
  · show (s.interrupt t ret).mem.read16 s.segs.ss (s.regs.sp - 6) = _
    rw [hm]
    simp only [State.memThreePushed]
    rw [Memory.read16_write16_same]
  · simp only [State.interrupt, State.memTwoPushed, State.seg, State.jump_segs, State.push16_segs, State.push16_mem,
      State.setSeg_segs, State.saveFlags_mem, State.saveFlags_segs, State.saveFlags_regs, Segs.get_set_self]
    congr 2; bv_omega
  · rw [← hm]; rfl
  · intro r hr
    have : r ≠ .sp := by intro e; subst e; simp at hr
    cases r <;> first | rfl | exact absurd rfl this
  · intro r hr
    have : r ≠ .cs := by intro e; subst e; simp at hr
    cases r <;> first | rfl | exact absurd rfl this
  · intro a ha
    rw [hm]
    simp only [State.frameBytes, State.wordBytes, List.cons_append, List.nil_append, List.mem_cons, List.not_mem_nil,
      or_false, not_or] at ha
    obtain ⟨a1, a2, a3, a4, a5, a6⟩ := ha
    simp only [State.memThreePushed, State.memTwoPushed]
    change a ≠ phys s.segs.ss _ at a1 a3 a5
    change a ≠ physHigh s.segs.ss _ at a2 a4 a6
    rw [Memory.read_write16_ne _ _ _ _ a5 a6, Memory.read_write16_ne _ _ _ _ a3 a4,
      Memory.read_write16_ne _ _ _ _ a1 a2]
  · intro a
    rw [hs]
    simp only [mem_recorded, State.frameBytes, State.wordBytes, State.seg, Segs.get, List.cons_append, List.nil_append,
      List.mem_cons, List.not_mem_nil, or_false]
    tauto

/-- The interrupt sequence on a state that differs from `s` in the flags, the draws, IP and the registers left open. -/
theorem State.interrupt_entered_of {s u : State} (t : Byte) (ret : Word) (opened : List Reg16)
    (hr : ∀ r, r ∉ opened → u.reg r = s.reg r) (hsp : u.regs.sp = s.regs.sp) (h1 : u.segs = s.segs)
    (h2 : u.mem = s.mem) (h3 : u.thisIp = s.thisIp) (h4 : u.stiShadow = s.stiShadow) (h5 : u.segInhibit = s.segInhibit)
    (h6 : u.trapArmed = s.trapArmed) (h7 : u.pre = s.pre) (h8 : u.lines = s.lines) (h9 : u.bus = s.bus)
    (h10 : u.text = s.text) (h11 : u.executed = s.executed) (h12 : u.stored = s.stored) :
    s.entered (u.interrupt t ret) t u.flags ret opened := by
  have h := State.interrupt_entered u t ret opened
  have hsp' : u.reg .sp = s.reg .sp := hsp
  simp only [State.entered, State.keeps, State.seg, State.frameBytes, State.wordBytes, State.memTwoPushed,
    State.memThreePushed, h1, h2, h3, h4, h5, h6, h7, h8, h9, h10, h11, h12, hsp, hsp'] at h ⊢
  obtain ⟨a1, a2, a3, a4, a5, a6, a7, a8, a9, a10, aq, a11, a12⟩ := h
  exact ⟨a1, a2, a3, a4, a5, a6, a7, a8, a9, a10, aq,
    fun r hm => (a11 r hm).trans (hr r fun e => hm (List.mem_cons_of_mem _ e)), a12⟩

/-- Memory keeps its canonical form through the interrupt sequence. -/
theorem State.interrupt_wf {s : State} (t : Byte) (ret : Word) (w : s.mem.wf = true) :
    (s.interrupt t ret).mem.wf = true := by
  simp only [State.interrupt, State.jump_mem, State.push16_mem, State.setSeg_mem, State.saveFlags_mem]
  exact Memory.wf_write16 _ _ _ (Memory.wf_write16 _ _ _ (Memory.wf_write16 _ _ _ w))

/-- What a return from an interrupt gives. -/
theorem State.interruptReturn_eq (s : State) :
    s.interruptReturn =
      { s with
        regs := { s.regs with sp := s.regs.sp + 6 }
        segs := { s.segs with cs := s.read16 .ss (s.regs.sp + 2) }
        ip := s.read16 .ss s.regs.sp
        flags := Flags.ofWord (s.read16 .ss (s.regs.sp + 4))
        queue := [] } := by
  have h6 : s.regs.sp + 4 + 2 = s.regs.sp + 6 := by bv_omega
  have h4 : s.regs.sp + 2 + 2 = s.regs.sp + 4 := by bv_omega
  simp only [State.interruptReturn, State.jumpFar, State.jump, State.setSeg, State.setFlags, State.dropTop, State.setReg,
    Regs.set, Segs.set, State.top, State.read16, State.seg, h6, h4]

/-! ### Counts -/

/-- Up to 31 a count stands as it is; above, as it is or modulo 32. -/
theorem effectiveCount_cases (masked : Bool) (n : Byte) :
    (n.toNat ≤ 31 ∧ effectiveCount masked n = n.toNat) ∨
      (31 < n.toNat ∧ (effectiveCount masked n = n.toNat ∨ effectiveCount masked n = n.toNat % 32)) := by
  unfold effectiveCount
  by_cases h : n.toNat ≤ 31
  · exact .inl ⟨h, by simp [h]⟩
  · exact .inr ⟨by omega, by cases masked <;> simp [h]⟩

theorem repeatTimes_succ {α : Type} (n : Nat) (f : α → α) (x : α) :
    repeatTimes (n + 1) f x = f (repeatTimes n f x) := by
  induction n generalizing x with
  | zero => rfl
  | succ k ih => exact ih (f x)

end Sys2Proof.Machine
end

