-- ==== Sys2Proof/Laws/Forms.lean ====
section
/-! SUPPORT. What the shared forms do over an operation that changes only flags and free values: the destination gets the
result, the flags are the operation's, control goes on. -/

namespace Sys2Proof.Machine

theorem State.setReg8_goesOn {s u : State} (h : s.goesOn u) (r : Reg8) (v : Byte) : s.goesOn (u.setReg8 r v) := h

theorem State.setReg_goesOn {s u : State} (h : s.goesOn u) (r : Reg16) (v : Word) : s.goesOn (u.setReg r v) := h

theorem State.agrees_setReg_puts {s u : State} (h : s.agrees u) (r : Reg16) (v : Word) :
    s.puts16 (u.setReg r v) (.reg r) v := State.writeRM16_puts h (.reg r) v

/-- Running a two-operand form. -/
theorem runAlu_spec (op : AluOp) (f : AluForm) (s : State) (ha : ∀ w a b, s.agrees (op w a b s).2)
    (hg : ∀ w a b, s.goesOn (op w a b s).2) :
    s.goesOn (runAlu op f s) ∧
      match AluForm.operands f s with
      | .byte d a b => s.puts8 (runAlu op f s) d (op 8 a b s).1 ∧ (runAlu op f s).flags = (op 8 a b s).2.flags
      | .word d a b => s.puts16 (runAlu op f s) d (op 16 a b s).1 ∧ (runAlu op f s).flags = (op 16 a b s).2.flags := by
  cases f <;> simp only [AluForm.operands, runAlu]
  case rmReg8 => exact ⟨State.writeRM8_goesOn (hg _ _ _) _ _, State.writeRM8_puts (ha _ _ _) _ _, by simp⟩
  case rmReg16 => exact ⟨State.writeRM16_goesOn (hg _ _ _) _ _, State.writeRM16_puts (ha _ _ _) _ _, by simp⟩
  case regRm8 => exact ⟨hg _ _ _, State.agrees_setReg8 (ha _ _ _) _ _, rfl⟩
  case regRm16 => exact ⟨hg _ _ _, State.agrees_setReg_puts (ha _ _ _) _ _, rfl⟩
  case al => exact ⟨hg _ _ _, State.agrees_setReg8 (ha _ _ _) _ _, rfl⟩
  case ax => exact ⟨hg _ _ _, State.agrees_setReg_puts (ha _ _ _) _ _, rfl⟩
  case rmImm8 => exact ⟨State.writeRM8_goesOn (hg _ _ _) _ _, State.writeRM8_puts (ha _ _ _) _ _, by simp⟩
  case rmImm16 => exact ⟨State.writeRM16_goesOn (hg _ _ _) _ _, State.writeRM16_puts (ha _ _ _) _ _, by simp⟩
  case rmImm8Alias => exact ⟨State.writeRM8_goesOn (hg _ _ _) _ _, State.writeRM8_puts (ha _ _ _) _ _, by simp⟩
  case rmImmSx => exact ⟨State.writeRM16_goesOn (hg _ _ _) _ _, State.writeRM16_puts (ha _ _ _) _ _, by simp⟩

/-- Running a two-operand form that writes no result. -/
theorem runAluFlags_spec (op : AluOp) (f : AluForm) (s : State) :
    match AluForm.operands f s with
    | .byte _ a b => runAluFlags op f s = (op 8 a b s).2
    | .word _ a b => runAluFlags op f s = (op 16 a b s).2 := by
  cases f <;> rfl

/-- Running a form of TEST. -/
theorem runTest_spec (op : AluOp) (f : TestForm) (s : State) :
    match TestForm.operands f s with
    | .byte _ a b => runTest op f s = (op 8 a b s).2
    | .word _ a b => runTest op f s = (op 16 a b s).2 := by
  cases f <;> rfl

/-- Running a one-operand form. -/
theorem runUnary_spec (op : UnaryOp) (f : UnaryForm) (s : State) (ha : ∀ w a, s.agrees (op w a s).2)
    (hg : ∀ w a, s.goesOn (op w a s).2) :
    s.goesOn (runUnary op f s) ∧
      match UnaryForm.operand f s with
      | .byte d a => s.puts8 (runUnary op f s) d (op 8 a s).1 ∧ (runUnary op f s).flags = (op 8 a s).2.flags
      | .word d a => s.puts16 (runUnary op f s) d (op 16 a s).1 ∧ (runUnary op f s).flags = (op 16 a s).2.flags := by
  cases f <;> simp only [UnaryForm.operand, runUnary]
  case rm8 => exact ⟨State.writeRM8_goesOn (hg _ _) _ _, State.writeRM8_puts (ha _ _) _ _, by simp⟩
  case rm16 => exact ⟨State.writeRM16_goesOn (hg _ _) _ _, State.writeRM16_puts (ha _ _) _ _, by simp⟩

/-- Running a form of INC or DEC. -/
theorem runInc_spec (op : UnaryOp) (f : IncForm) (s : State) (ha : ∀ w a, s.agrees (op w a s).2)
    (hg : ∀ w a, s.goesOn (op w a s).2) :
    s.goesOn (runInc op f s) ∧
      match IncForm.operand f s with
      | .byte d a => s.puts8 (runInc op f s) d (op 8 a s).1 ∧ (runInc op f s).flags = (op 8 a s).2.flags
      | .word d a => s.puts16 (runInc op f s) d (op 16 a s).1 ∧ (runInc op f s).flags = (op 16 a s).2.flags := by
  cases f <;> simp only [IncForm.operand, runInc]
  case reg16 => exact ⟨hg _ _, State.agrees_setReg_puts (ha _ _) _ _, rfl⟩
  case rm8 => exact ⟨State.writeRM8_goesOn (hg _ _) _ _, State.writeRM8_puts (ha _ _) _ _, by simp⟩
  case rm16 => exact ⟨State.writeRM16_goesOn (hg _ _) _ _, State.writeRM16_puts (ha _ _) _ _, by simp⟩

/-- Running a shift or rotate. -/
theorem runShift_spec (op : ShiftOp) (f : ShiftForm) (s : State) (ha : ∀ w n a, s.agrees (op w n a s).2)
    (hg : ∀ w n a, s.goesOn (op w n a s).2) :
    s.goesOn (runShift op f s) ∧
      match ShiftForm.operand f s with
      | .byte d a =>
        s.puts8 (runShift op f s) d (op 8 (s.turns (ShiftForm.count f)) a s).1 ∧
          (runShift op f s).flags = (op 8 (s.turns (ShiftForm.count f)) a s).2.flags
      | .word d a =>
        s.puts16 (runShift op f s) d (op 16 (s.turns (ShiftForm.count f)) a s).1 ∧
          (runShift op f s).flags = (op 16 (s.turns (ShiftForm.count f)) a s).2.flags := by
  cases f <;> simp only [ShiftForm.operand, runShift, ShiftForm.count]
  case rm8 => exact ⟨State.writeRM8_goesOn (hg _ _ _) _ _, State.writeRM8_puts (ha _ _ _) _ _, by simp⟩
  case rm16 => exact ⟨State.writeRM16_goesOn (hg _ _ _) _ _, State.writeRM16_puts (ha _ _ _) _ _, by simp⟩

end Sys2Proof.Machine
end

