-- ==== Sys2Proof/Laws/Steady.lean ====
section
/-! SUPPORT. What every meaning keeps: memory in its canonical form, the prefixes in force, the lines, that the machine is
neither halted nor waiting, program text and what has been executed, and that every byte it changes is recorded as stored to; said once per shared
operation, then for `exec`. -/

namespace Sys2Proof.Machine

/-- What all meanings do with the record of the run: program text and what has been executed stay, every byte changed is recorded, the prefetch queue
stays or is emptied (20_memory.md R72; log 22). -/
def State.tracked (s t : State) : Prop :=
  t.text = s.text ∧ t.executed = s.executed ∧ s.stored <:+ t.stored ∧ (∀ a, a ∉ t.stored → t.mem.read a = s.mem.read a) ∧
    (t.queue = s.queue ∨ t.queue = [])

theorem State.tracked_refl (s : State) : s.tracked s := ⟨rfl, rfl, List.suffix_rfl, fun _ _ => rfl, .inl rfl⟩

theorem State.tracked_trans {s t u : State} (h : s.tracked t) (k : t.tracked u) : s.tracked u :=
  ⟨k.1.trans h.1, k.2.1.trans h.2.1, h.2.2.1.trans k.2.2.1,
    fun a ha => (k.2.2.2.1 a ha).trans (h.2.2.2.1 a fun e => ha (k.2.2.1.subset e)),
    k.2.2.2.2.elim (fun e => h.2.2.2.2.imp e.trans e.trans) .inr⟩

/-- What all meanings keep but those of HLT, WAIT, the prefixes and the repeated string instructions. -/
def State.steady (s t : State) : Prop :=
  (s.mem.wf = true → t.mem.wf = true) ∧ t.pre = s.pre ∧ (s.halted = false → t.halted = false) ∧
    (s.waiting = false → t.waiting = false) ∧ t.lines = s.lines ∧ s.tracked t

theorem State.steady_refl (s : State) : s.steady s := ⟨id, rfl, id, id, rfl, s.tracked_refl⟩

theorem State.steady_trans {s t u : State} (h : s.steady t) (k : t.steady u) : s.steady u :=
  ⟨fun w => k.1 (h.1 w), k.2.1.trans h.2.1, fun e => k.2.2.1 (h.2.2.1 e), fun e => k.2.2.2.1 (h.2.2.2.1 e),
    k.2.2.2.2.1.trans h.2.2.2.2.1, State.tracked_trans h.2.2.2.2.2 k.2.2.2.2.2⟩

/-! ### The updates -/

variable {s t : State}

theorem State.steady_setReg (h : s.steady t) (r : Reg16) (v : Word) : s.steady (t.setReg r v) := h

theorem State.steady_setReg8 (h : s.steady t) (r : Reg8) (v : Byte) : s.steady (t.setReg8 r v) := h

theorem State.steady_setSeg (h : s.steady t) (r : SegReg) (v : Word) : s.steady (t.setSeg r v) := h

theorem State.steady_setFlags (h : s.steady t) (f : Flags) : s.steady (t.setFlags f) := h

theorem State.steady_drawn (h : s.steady t) (k : Nat) : s.steady (t.drawn k) := h

theorem State.steady_dropTop (h : s.steady t) : s.steady t.dropTop := h

theorem State.steady_jump (h : s.steady t) (o : Word) : s.steady (t.jump o) :=
  ⟨h.1, h.2.1, h.2.2.1, h.2.2.2.1, h.2.2.2.2.1, h.2.2.2.2.2.1, h.2.2.2.2.2.2.1, h.2.2.2.2.2.2.2.1,
    h.2.2.2.2.2.2.2.2.1, .inr rfl⟩

theorem State.steady_jumpFar (h : s.steady t) (b o : Word) : s.steady (t.jumpFar b o) :=
  State.steady_jump (State.steady_setSeg h .cs b) o

theorem State.steady_jumpIf (h : s.steady t) (b : Bool) (d : Byte) : s.steady (t.jumpIf b d) := by
  cases b
  · exact h
  · exact State.steady_jump h _

theorem State.steady_discard (h : s.steady t) (n : Word) : s.steady (t.discard n) := h

theorem State.steady_loadSeg (h : s.steady t) (r : SegReg) (v : Word) : s.steady (t.loadSeg r v) := h

theorem State.steady_setDxAx (h : s.steady t) (v : BitVec 32) : s.steady (t.setDxAx v) := h

theorem State.steady_portOut (h : s.steady t) (p : Word) (w : Width) (v : Word) : s.steady (t.portOut p w v) := h

theorem State.steady_afterPortRead (h : s.steady t) (p : Word) (w : Width) (v : Word) :
    s.steady (t.afterPortRead p w v) := h

theorem State.steady_write8 (h : s.steady t) (r : SegReg) (o : Word) (v : Byte) : s.steady (t.write8 r o v) :=
  State.steady_trans h ⟨fun w => Memory.wf_write _ w (phys_lt _ _), rfl, id, id, rfl, rfl, rfl, recorded_suffix _ _,
    fun a ha => by
      simp only [State.write8, mem_recorded, not_or] at ha
      exact Memory.read_write_ne _ _ ha.1, .inl rfl⟩

theorem State.steady_write16 (h : s.steady t) (r : SegReg) (o v : Word) : s.steady (t.write16 r o v) :=
  State.steady_trans h ⟨Memory.wf_write16 _ _ _, rfl, id, id, rfl, rfl, rfl,
    (recorded_suffix _ _).trans (recorded_suffix _ _),
    fun a ha => by
      simp only [State.write16, mem_recorded, not_or] at ha
      exact Memory.read_write16_ne _ _ _ _ ha.2.1 ha.1, .inl rfl⟩

theorem State.steady_push16 (h : s.steady t) (v : Word) : s.steady (t.push16 v) :=
  State.steady_write16 (State.steady_setReg h .sp (t.regs.sp - 2)) _ _ _

theorem State.steady_leaveIdle (h : s.steady t) : s.steady { t with halted := false, waiting := false } :=
  ⟨h.1, h.2.1, fun _ => rfl, fun _ => rfl, h.2.2.2.2⟩

theorem State.steady_interrupt (h : s.steady t) (n : Byte) (ret : Word) : s.steady (t.interrupt n ret) := by
  unfold State.interrupt
  exact State.steady_leaveIdle (State.steady_jump (State.steady_push16 (State.steady_setSeg (State.steady_push16
    (State.steady_setFlags (State.steady_push16 h _) _) _) _ _) _) _)

theorem State.steady_writeRM8 (h : s.steady t) (d : RM8) (v : Byte) : s.steady (t.writeRM8 d v) := by
  cases d with
  | reg r => exact State.steady_setReg8 h r v
  | mem m => exact State.steady_write8 h _ _ v

theorem State.steady_writeRM16 (h : s.steady t) (d : RM16) (v : Word) : s.steady (t.writeRM16 d v) := by
  cases d with
  | reg r => exact State.steady_setReg h r v
  | mem m => exact State.steady_write16 h _ _ v

theorem State.steady_repeatTimes (f : State → State) (hf : ∀ u : State, u.steady (f u)) (n : Nat) (h : s.steady t) :
    s.steady (repeatTimes n f t) := by
  induction n generalizing t with
  | zero => exact h
  | succ k ih => exact ih (State.steady_trans h (hf t))

/-! ### The shared forms -/

theorem runAlu_steady {op : AluOp} (h : ∀ w a b, s.steady (op w a b s).2) (f : AluForm) : s.steady (runAlu op f s) := by
  cases f with
  | rmReg8 | rmImm8 | rmImm8Alias => exact State.steady_writeRM8 (h _ _ _) _ _
  | rmReg16 | rmImm16 | rmImmSx => exact State.steady_writeRM16 (h _ _ _) _ _
  | regRm8 | al => exact State.steady_setReg8 (h _ _ _) _ _
  | regRm16 | ax => exact State.steady_setReg (h _ _ _) _ _

theorem runAluFlags_steady {op : AluOp} (h : ∀ w a b, s.steady (op w a b s).2) (f : AluForm) :
    s.steady (runAluFlags op f s) := by
  cases f <;> exact h _ _ _

theorem runTest_steady {op : AluOp} (h : ∀ w a b, s.steady (op w a b s).2) (f : TestForm) :
    s.steady (runTest op f s) := by
  cases f <;> exact h _ _ _

theorem runUnary_steady {op : UnaryOp} (h : ∀ w a, s.steady (op w a s).2) (f : UnaryForm) :
    s.steady (runUnary op f s) := by
  cases f with
  | rm8 => exact State.steady_writeRM8 (h _ _) _ _
  | rm16 => exact State.steady_writeRM16 (h _ _) _ _

theorem runInc_steady {op : UnaryOp} (h : ∀ w a, s.steady (op w a s).2) (f : IncForm) : s.steady (runInc op f s) := by
  cases f with
  | reg16 => exact State.steady_setReg (h _ _) _ _
  | rm8 => exact State.steady_writeRM8 (h _ _) _ _
  | rm16 => exact State.steady_writeRM16 (h _ _) _ _

theorem runShift_steady {op : ShiftOp} (h : ∀ w n a, s.steady (op w n a s).2) (f : ShiftForm) :
    s.steady (runShift op f s) := by
  cases f with
  | rm8 => exact State.steady_writeRM8 (h _ _ _) _ _
  | rm16 => exact State.steady_writeRM16 (h _ _ _) _ _

theorem State.enterFrame_steady (h : s.steady t) (locals : Word) (n : Nat) : s.steady (t.enterFrame locals n) := by
  have e : ∀ u : State, u.steady u.copyFramePointer := fun u =>
    State.steady_push16 (State.steady_setReg (State.steady_refl u) .bp (u.regs.bp - 2)) _
  unfold State.enterFrame
  refine State.steady_setReg (State.steady_setReg ?_ _ _) _ _
  split
  · exact State.steady_push16 h _
  · exact State.steady_push16 (State.steady_repeatTimes _ e _ (State.steady_push16 h _)) _

/-! ### The meanings -/

/-- Every meaning but those named keeps what `State.steady` says. -/
theorem exec_steady {i : Instr} {s t : State} (h : exec i s = .next t) (h1 : i ≠ .hlt) (h2 : i ≠ .wait)
    (h3 : ¬ Instr.isPrefix i = true) (h4 : ¬ Instr.isString i = true) : s.steady t := by
  cases i
  case aaa =>
    cases h; exact State.steady_drawn (State.steady_setFlags (State.steady_setReg (State.steady_refl s) _ _) _) _
  case aad =>
    cases h; exact State.steady_drawn (State.steady_setFlags (State.steady_setReg (State.steady_refl s) _ _) _) _
  case aam =>
    cases h; exact State.steady_drawn (State.steady_setFlags (State.steady_setReg (State.steady_refl s) _ _) _) _
  case aas =>
    cases h; exact State.steady_drawn (State.steady_setFlags (State.steady_setReg (State.steady_refl s) _ _) _) _
  case adc f =>
    cases h; exact runAlu_steady (fun _ _ _ => State.steady_setFlags (State.steady_refl s) _) _
  case add f =>
    cases h; exact runAlu_steady (fun _ _ _ => State.steady_setFlags (State.steady_refl s) _) _
  case cbw =>
    cases h; exact State.steady_setReg (State.steady_refl s) _ _
  case cmp f =>
    cases h; exact runAluFlags_steady (fun _ _ _ => State.steady_setFlags (State.steady_refl s) _) _
  case cwd =>
    cases h; exact State.steady_setReg (State.steady_refl s) _ _
  case daa =>
    cases h; exact State.steady_drawn (State.steady_setFlags (State.steady_setReg8 (State.steady_refl s) _ _) _) _
  case das =>
    simp only [exec, execDas] at h; split at h <;> cases h <;> exact State.steady_drawn (State.steady_setFlags (State.steady_setReg8 (State.steady_refl s) _ _) _) _
  case dec f =>
    cases h; exact runInc_steady (fun _ _ => State.steady_setFlags (State.steady_refl s) _) _
  case div f =>
    cases f with
    | rm8 =>
      cases h; split
      · exact State.steady_interrupt (State.steady_drawn (State.steady_setFlags (State.steady_setReg (State.steady_refl s) _ _) _) _) _ _
      · exact State.steady_drawn (State.steady_setFlags (State.steady_setReg (State.steady_refl s) _ _) _) _
    | rm16 =>
      cases h; split
      · exact State.steady_interrupt (State.steady_drawn (State.steady_setFlags (State.steady_setReg (State.steady_setReg (State.steady_refl s) _ _) _ _) _) _) _ _
      · exact State.steady_drawn (State.steady_setFlags (State.steady_setReg (State.steady_setReg (State.steady_refl s) _ _) _ _) _) _
  case idiv f =>
    cases f with
    | rm8 =>
      cases h; split
      · exact State.steady_interrupt (State.steady_drawn (State.steady_setFlags (State.steady_setReg (State.steady_refl s) _ _) _) _) _ _
      · exact State.steady_drawn (State.steady_setFlags (State.steady_setReg (State.steady_refl s) _ _) _) _
    | rm16 =>
      cases h; split
      · exact State.steady_interrupt (State.steady_drawn (State.steady_setFlags (State.steady_setReg (State.steady_setReg (State.steady_refl s) _ _) _ _) _) _) _ _
      · exact State.steady_drawn (State.steady_setFlags (State.steady_setReg (State.steady_setReg (State.steady_refl s) _ _) _ _) _) _
  case imul f =>
    cases f with
    | rm8 => cases h; exact State.steady_drawn (State.steady_setFlags (State.steady_setReg (State.steady_refl s) _ _) _) _
    | rm16 => cases h; exact State.steady_drawn (State.steady_setFlags (State.steady_setDxAx (State.steady_refl s) _) _) _
  case imulImm16 r rm imm =>
    cases h; exact State.steady_drawn (State.steady_setFlags (State.steady_setReg (State.steady_refl s) _ _) _) _
  case imulImm8 r rm imm =>
    cases h; exact State.steady_drawn (State.steady_setFlags (State.steady_setReg (State.steady_refl s) _ _) _) _
  case inc f =>
    cases h; exact runInc_steady (fun _ _ => State.steady_setFlags (State.steady_refl s) _) _
  case mul f =>
    cases f with
    | rm8 => cases h; exact State.steady_drawn (State.steady_setFlags (State.steady_setReg (State.steady_refl s) _ _) _) _
    | rm16 => cases h; exact State.steady_drawn (State.steady_setFlags (State.steady_setDxAx (State.steady_refl s) _) _) _
  case neg f =>
    cases h; exact runUnary_steady (fun _ _ => State.steady_setFlags (State.steady_refl s) _) _
  case sbb f =>
    cases h; exact runAlu_steady (fun _ _ _ => State.steady_setFlags (State.steady_refl s) _) _
  case sub f =>
    cases h; exact runAlu_steady (fun _ _ _ => State.steady_setFlags (State.steady_refl s) _) _
  case and f =>
    cases h; exact runAlu_steady (fun _ _ _ => State.steady_drawn (State.steady_setFlags (State.steady_refl s) _) _) _
  case not f =>
    cases h; exact runUnary_steady (fun _ _ => State.steady_refl s) _
  case or f =>
    cases h; exact runAlu_steady (fun _ _ _ => State.steady_drawn (State.steady_setFlags (State.steady_refl s) _) _) _
  case test f =>
    cases h; exact runTest_steady (fun _ _ _ => State.steady_drawn (State.steady_setFlags (State.steady_refl s) _) _) _
  case xor f =>
    cases h; exact runAlu_steady (fun _ _ _ => State.steady_drawn (State.steady_setFlags (State.steady_refl s) _) _) _
  case rcl f =>
    cases h; exact runShift_steady (fun _ _ _ => State.steady_drawn (State.steady_setFlags (State.steady_refl s) _) _) _
  case rcr f =>
    cases h; exact runShift_steady (fun _ _ _ => State.steady_drawn (State.steady_setFlags (State.steady_refl s) _) _) _
  case rol f =>
    cases h; exact runShift_steady (fun _ _ _ => State.steady_drawn (State.steady_setFlags (State.steady_refl s) _) _) _
  case ror f =>
    cases h; exact runShift_steady (fun _ _ _ => State.steady_drawn (State.steady_setFlags (State.steady_refl s) _) _) _
  case shl f =>
    cases h; exact runShift_steady (fun _ _ _ => State.steady_drawn (State.steady_setFlags (State.steady_refl s) _) _) _
  case sar f =>
    cases h; exact runShift_steady (fun _ _ _ => State.steady_drawn (State.steady_setFlags (State.steady_refl s) _) _) _
  case shr f =>
    cases h; exact runShift_steady (fun _ _ _ => State.steady_drawn (State.steady_setFlags (State.steady_refl s) _) _) _
  case bound r m =>
    cases h; split
    · exact State.steady_interrupt (State.steady_refl s) _ _
    · exact State.steady_refl s
  case callNear disp =>
    cases h; exact State.steady_jump (State.steady_push16 (State.steady_refl s) _) _
  case callNearInd rm =>
    cases h; exact State.steady_jump (State.steady_push16 (State.steady_refl s) _) _
  case callFar offset segment =>
    cases h; exact State.steady_jump (State.steady_push16 (State.steady_setSeg (State.steady_push16 (State.steady_refl s) _) _ _) _) _
  case callFarInd m =>
    cases h; exact State.steady_jump (State.steady_push16 (State.steady_setSeg (State.steady_push16 (State.steady_refl s) _) _ _) _) _
  case int t =>
    cases h; exact State.steady_interrupt (State.steady_refl s) _ _
  case int3 =>
    cases h; exact State.steady_interrupt (State.steady_refl s) _ _
  case into =>
    cases h; split
    · exact State.steady_interrupt (State.steady_refl s) _ _
    · exact State.steady_refl s
  case iret =>
    cases h; exact State.steady_jumpFar (State.steady_setFlags (State.steady_dropTop (State.steady_dropTop (State.steady_dropTop (State.steady_refl s)))) _) _ _
  case ja disp =>
    cases h; exact State.steady_jumpIf (State.steady_refl s) _ _
  case jae disp =>
    cases h; exact State.steady_jumpIf (State.steady_refl s) _ _
  case jb disp =>
    cases h; exact State.steady_jumpIf (State.steady_refl s) _ _
  case jbe disp =>
    cases h; exact State.steady_jumpIf (State.steady_refl s) _ _
  case jcxz disp =>
    cases h; exact State.steady_jumpIf (State.steady_refl s) _ _
  case je disp =>
    cases h; exact State.steady_jumpIf (State.steady_refl s) _ _
  case jg disp =>
    cases h; exact State.steady_jumpIf (State.steady_refl s) _ _
  case jge disp =>
    cases h; exact State.steady_jumpIf (State.steady_refl s) _ _
  case jl disp =>
    cases h; exact State.steady_jumpIf (State.steady_refl s) _ _
  case jle disp =>
    cases h; exact State.steady_jumpIf (State.steady_refl s) _ _
  case jne disp =>
    cases h; exact State.steady_jumpIf (State.steady_refl s) _ _
  case jno disp =>
    cases h; exact State.steady_jumpIf (State.steady_refl s) _ _
  case jns disp =>
    cases h; exact State.steady_jumpIf (State.steady_refl s) _ _
  case jnp disp =>
    cases h; exact State.steady_jumpIf (State.steady_refl s) _ _
  case jo disp =>
    cases h; exact State.steady_jumpIf (State.steady_refl s) _ _
  case jp disp =>
    cases h; exact State.steady_jumpIf (State.steady_refl s) _ _
  case js disp =>
    cases h; exact State.steady_jumpIf (State.steady_refl s) _ _
  case jmpShort disp =>
    cases h; exact State.steady_jump (State.steady_refl s) _
  case jmpNear disp =>
    cases h; exact State.steady_jump (State.steady_refl s) _
  case jmpNearInd rm =>
    cases h; exact State.steady_jump (State.steady_refl s) _
  case jmpFar offset segment =>
    cases h; exact State.steady_jumpFar (State.steady_refl s) _ _
  case jmpFarInd m =>
    cases h; exact State.steady_jumpFar (State.steady_refl s) _ _
  case loop disp =>
    cases h; exact State.steady_jumpIf (State.steady_setReg (State.steady_refl s) _ _) _ _
  case loope disp =>
    cases h; exact State.steady_jumpIf (State.steady_setReg (State.steady_refl s) _ _) _ _
  case loopne disp =>
    cases h; exact State.steady_jumpIf (State.steady_setReg (State.steady_refl s) _ _) _ _
  case ret =>
    cases h; exact State.steady_jump (State.steady_dropTop (State.steady_refl s)) _
  case retPop n =>
    cases h; exact State.steady_discard (State.steady_jump (State.steady_dropTop (State.steady_refl s)) _) _
  case retFar =>
    cases h; exact State.steady_jumpFar (State.steady_dropTop (State.steady_dropTop (State.steady_refl s))) _ _
  case retFarPop n =>
    cases h; exact State.steady_discard (State.steady_jumpFar (State.steady_dropTop (State.steady_dropTop (State.steady_refl s))) _ _) _
  case clc =>
    cases h; exact State.steady_setFlags (State.steady_refl s) _
  case cld =>
    cases h; exact State.steady_setFlags (State.steady_refl s) _
  case cli =>
    cases h; exact State.steady_setFlags (State.steady_refl s) _
  case cmc =>
    cases h; exact State.steady_setFlags (State.steady_refl s) _
  case stc =>
    cases h; exact State.steady_setFlags (State.steady_refl s) _
  case std =>
    cases h; exact State.steady_setFlags (State.steady_refl s) _
  case sti =>
    cases h; exact State.steady_refl s
  case lahf =>
    cases h; exact State.steady_drawn (State.steady_setReg8 (State.steady_refl s) _ _) _
  case sahf =>
    cases h; exact State.steady_setFlags (State.steady_refl s) _
  case nop =>
    cases h; exact State.steady_refl s
  case lock =>
    exact absurd rfl h3
  case seg r =>
    exact absurd rfl h3
  case esc opcode rm =>
    cases h; split
    · exact State.steady_interrupt (State.steady_refl s) _ _
    · exact State.steady_refl _
  case hlt =>
    exact absurd rfl h1
  case wait =>
    exact absurd rfl h2
  case cmps w =>
    exact absurd rfl h4
  case ins w =>
    exact absurd rfl h4
  case lods w =>
    exact absurd rfl h4
  case movs w =>
    exact absurd rfl h4
  case outs w =>
    exact absurd rfl h4
  case scas w =>
    exact absurd rfl h4
  case stos w =>
    exact absurd rfl h4
  case rep =>
    exact absurd rfl h3
  case repne =>
    exact absurd rfl h3
  case enter locals level =>
    cases h; exact State.enterFrame_steady (State.steady_refl s) _ _
  case leave =>
    cases h; exact State.steady_setReg (State.steady_dropTop (State.steady_setReg (State.steady_refl s) _ _)) _ _
  case inPort w p =>
    cases w with
    | byte => cases h; exact State.steady_afterPortRead (State.steady_setReg8 (State.steady_refl s) _ _) _ _ _
    | word => cases h; exact State.steady_afterPortRead (State.steady_setReg (State.steady_refl s) _ _) _ _ _
  case outPort w p =>
    cases w <;> cases h <;> exact State.steady_portOut (State.steady_refl s) _ _ _
  case lds r m =>
    cases h; exact State.steady_setSeg (State.steady_setReg (State.steady_refl s) _ _) _ _
  case lea r m =>
    cases h; exact State.steady_setReg (State.steady_refl s) _ _
  case les r m =>
    cases h; exact State.steady_setSeg (State.steady_setReg (State.steady_refl s) _ _) _ _
  case mov f =>
    cases f with
    | rmReg8 | rmImm8 => cases h; exact State.steady_writeRM8 (State.steady_refl s) _ _
    | rmReg16 | rmImm16 => cases h; exact State.steady_writeRM16 (State.steady_refl s) _ _
    | regRm8 | alMem | regImm8 => cases h; exact State.steady_setReg8 (State.steady_refl s) _ _
    | regRm16 | axMem | regImm16 => cases h; exact State.steady_setReg (State.steady_refl s) _ _
    | memAl => cases h; exact State.steady_write8 (State.steady_refl s) _ _ _
    | memAx => cases h; exact State.steady_write16 (State.steady_refl s) _ _ _
  case movFromSeg rm sr =>
    cases h; exact State.steady_writeRM16 (State.steady_refl s) _ _
  case movToSeg sr rm =>
    cases sr <;> cases h <;> exact State.steady_loadSeg (State.steady_refl s) _ _
  case popReg r =>
    cases r <;> cases h <;> exact State.steady_refl s
  case popRm rm =>
    cases rm with
    | reg r => cases r <;> cases h <;> exact State.steady_refl s
    | mem m => cases h; exact State.steady_dropTop (State.steady_write16 (State.steady_refl s) _ _ _)
  case popSeg sr =>
    cases sr <;> cases h <;> exact State.steady_loadSeg (State.steady_dropTop (State.steady_refl s)) _ _
  case popa =>
    cases h; exact State.steady_setReg (State.steady_dropTop (State.steady_setReg (State.steady_dropTop (State.steady_setReg (State.steady_dropTop (State.steady_setReg (State.steady_dropTop (State.steady_dropTop (State.steady_setReg (State.steady_dropTop (State.steady_setReg (State.steady_dropTop (State.steady_setReg (State.steady_dropTop (State.steady_refl s)) _ _)) _ _)) _ _))) _ _)) _ _)) _ _)) _ _
  case popf =>
    cases h; exact State.steady_setFlags (State.steady_dropTop (State.steady_refl s)) _
  case pushReg r =>
    cases h; exact State.steady_push16 (State.steady_refl s) _
  case pushRm rm =>
    cases h; exact State.steady_push16 (State.steady_refl s) _
  case pushSeg sr =>
    cases h; exact State.steady_push16 (State.steady_refl s) _
  case pushImm16 imm =>
    cases h; exact State.steady_push16 (State.steady_refl s) _
  case pushImm8 imm =>
    cases h; exact State.steady_push16 (State.steady_refl s) _
  case pusha =>
    cases h; exact State.steady_push16 (State.steady_push16 (State.steady_push16 (State.steady_push16 (State.steady_push16 (State.steady_push16 (State.steady_push16 (State.steady_push16 (State.steady_refl s) _) _) _) _) _) _) _) _
  case pushf =>
    cases h; exact State.steady_push16 (State.steady_refl s) _
  case xchg f =>
    cases f with
    | rmReg8 => cases h; exact State.steady_setReg8 (State.steady_writeRM8 (State.steady_refl s) _ _) _ _
    | rmReg16 => cases h; exact State.steady_setReg (State.steady_writeRM16 (State.steady_refl s) _ _) _ _
  case xchgAx r =>
    cases h; exact State.steady_setReg (State.steady_setReg (State.steady_refl s) _ _) _ _
  case xlat =>
    cases h; exact State.steady_setReg8 (State.steady_refl s) _ _

/-! ### The string instructions -/

theorem State.steady_stepIndex {s t : State} (h : s.steady t) (w : Width) (r : Reg16) : s.steady (t.stepIndex w r) := h

/-- A turn of a string instruction leaves what one run of the primitive leaves, but for the mark that it goes on. -/
theorem repeated_steady {once : State → State} (h : ∀ u : State, u.steady (once u)) (c : Bool) (s : State) :
    ∃ u : State, s.steady u ∧ (repeated c once s = u ∨
      repeated c once s = { u with ip := u.thisIp, pre := { u.pre with again := true } }) := by
  unfold repeated
  cases s.pre.rep with
  | none => exact ⟨_, h s, .inl rfl⟩
  | some z =>
    dsimp only
    split
    · exact ⟨_, State.steady_refl s, .inl rfl⟩
    · refine ⟨_, State.steady_setReg (h s) .cx ((once s).regs.cx - 1), ?_⟩
      split
      · exact .inl rfl
      · exact .inr rfl

/-- The meaning of a string instruction leaves what the others leave, but for the mark that it goes on. -/
theorem exec_string_steady {i : Instr} {s t : State} (h : exec i s = .next t) (hi : Instr.isString i = true) :
    ∃ u : State, s.steady u ∧ (t = u ∨ t = { u with ip := u.thisIp, pre := { u.pre with again := true } }) := by
  cases i <;> simp only [Instr.isString, Bool.false_eq_true] at hi <;> rename_i w
  case cmps =>
    cases h; refine repeated_steady (fun u => ?_) _ _
    cases w <;> exact State.steady_refl _
  case ins =>
    cases h; refine repeated_steady (fun u => ?_) _ _
    cases w
    · exact State.steady_write8 (State.steady_refl u) _ _ _
    · exact State.steady_write16 (State.steady_refl u) _ _ _
  case lods =>
    cases h; refine repeated_steady (fun u => ?_) _ _
    cases w <;> exact State.steady_refl _
  case movs =>
    cases h; refine repeated_steady (fun u => ?_) _ _
    cases w
    · exact State.steady_write8 (State.steady_refl u) _ _ _
    · exact State.steady_write16 (State.steady_refl u) _ _ _
  case outs =>
    cases h; refine repeated_steady (fun u => ?_) _ _
    cases w <;> exact State.steady_refl _
  case scas =>
    cases h; refine repeated_steady (fun u => ?_) _ _
    cases w <;> exact State.steady_refl _
  case stos =>
    cases h; refine repeated_steady (fun u => ?_) _ _
    cases w
    · exact State.steady_write8 (State.steady_refl u) _ _ _
    · exact State.steady_write16 (State.steady_refl u) _ _ _

/-! ### The boundary -/

/-- Taking a request keeps what every meaning keeps, but for the lines, which lose it. -/
theorem State.taken_keeps (s : State) (l : Lines) (n : Byte) (ret : Word) :
    let t := ({ s with lines := l } : State).interrupt n ret
    (s.mem.wf = true → t.mem.wf = true) ∧ t.pre = s.pre ∧ t.halted = false ∧ t.waiting = false ∧ s.tracked t := by
  have h := State.steady_interrupt (State.steady_refl { s with lines := l }) n ret
  exact ⟨h.1, h.2.1, rfl, rfl, h.2.2.2.2.2⟩

/-- What step 2 of the boundary keeps. -/
theorem State.takeExternal_keeps (s : State) :
    (s.mem.wf = true → s.takeExternal.mem.wf = true) ∧ s.takeExternal.pre = s.pre ∧
      (s.takeExternal.halted = true → s.halted = true) ∧ (s.waiting = false → s.takeExternal.waiting = false) ∧
      s.tracked s.takeExternal := by
  have key : ∀ l n, (let t := ({ s with lines := l } : State).interrupt n s.returnIp
      (s.mem.wf = true → t.mem.wf = true) ∧ t.pre = s.pre ∧ (t.halted = true → s.halted = true) ∧
        (s.waiting = false → t.waiting = false) ∧ s.tracked t) := by
    intro l n
    obtain ⟨h1, h2, h3, h4, h5⟩ := State.taken_keeps s l n s.returnIp
    exact ⟨h1, h2, fun h => Bool.noConfusion (h3.symm.trans h), fun _ => h4, h5⟩
  unfold State.takeExternal
  split
  · split
    · exact key _ _
    · split
      · exact key _ _
      · exact ⟨id, rfl, id, id, s.tracked_refl⟩
  · exact ⟨id, rfl, id, id, s.tracked_refl⟩

/-- The boundary keeps memory's canonical form, the prefixes and program text, records what it stores, and enters neither the
halt nor the wait state. -/
theorem State.boundary_keeps (s : State) :
    (s.mem.wf = true → s.boundary.mem.wf = true) ∧ s.boundary.pre = s.pre ∧
      (s.boundary.halted = true → s.halted = true) ∧ (s.boundary.waiting = true → s.waiting = true) ∧
      s.tracked s.boundary := by
  obtain ⟨e1, e2, e3, e4, e5⟩ := s.takeExternal_keeps
  have e4 : s.takeExternal.waiting = true → s.waiting = true := fun h => by
    by_contra k; rw [e4 (by simpa using k)] at h; cases h
  unfold State.boundary
  generalize s.takeExternal = u at *
  unfold State.takeTrap
  split
  · have h := State.steady_interrupt (State.steady_refl u) Config.singleStepType u.returnIp
    exact ⟨fun w => h.1 (e1 w), h.2.1.trans e2, fun h => Bool.noConfusion h, fun h => Bool.noConfusion h,
      State.tracked_trans e5 h.2.2.2.2.2⟩
  · exact ⟨e1, e2, e3, e4, e5⟩

end Sys2Proof.Machine
end

