-- ==== Sys2Proof/Laws/Boundary.lean ====
section
/-! SUPPORT. What the two steps of the boundary can do (60_exceptions.md R353), when a step stores into program text
(20_memory.md R72), and a string instruction without a repeat prefix. -/

namespace Sys2Proof.Machine

/-! ### The boundary -/

/-- An external request is due exactly when `State.request` names one. -/
theorem State.request_isSome (s : State) : s.request.isSome = s.externalDue := by
  unfold State.request State.externalDue
  cases s.segInhibit <;> cases s.lines.nmi <;> cases s.lines.intr <;> cases s.flags.IF <;> cases s.stiShadow <;> rfl

/-- Step 2 of the boundary: the request that may be recognised is taken, else nothing happens. -/
theorem State.takeExternal_eq (e : State) :
    e.takeExternal =
      match e.request with
      | some (n, l) => { e with lines := l }.interrupt n e.returnIp
      | none => e := by
  unfold State.takeExternal State.request State.externalDue
  cases h1 : e.segInhibit
  · cases h2 : e.lines.nmi
    · cases h3 : e.lines.intr with
      | none => rfl
      | some n => cases h4 : (e.flags.IF && !e.stiShadow) <;> simp [h1, h4, State.takeIntr]
    · simp [h1, State.takeNmi, Config.nmiType]
  · simp

theorem State.takeExternal_cases (e : State) :
    match e.request with
    | some (n, l) => { e with lines := l }.entered e.takeExternal n e.flags e.returnIp []
    | none => e.takeExternal = e := by
  rw [State.takeExternal_eq]
  cases e.request with
  | none => rfl
  | some p => exact State.interrupt_entered { e with lines := p.2 } p.1 e.returnIp []

/-- Step 3 of the boundary: the single-step trap, if it is armed and not inhibited. -/
theorem State.takeTrap_cases (v : State) :
    if v.trapArmed && !v.segInhibit then { v with trapArmed := false }.entered v.takeTrap 1 v.flags v.returnIp []
    else v.takeTrap = v := by
  unfold State.takeTrap
  by_cases h : (v.trapArmed && !v.segInhibit) = true
  · rw [if_pos h, if_pos h]
    exact State.interrupt_entered { v with trapArmed := false } 1 v.returnIp []
  · rw [if_neg h, if_neg h]

/-! ### Program text -/

/-- A step that answers a next state has stored nothing into program text. -/
theorem State.settle_next {s t : State} {r : Result} (h : s.settle r = .next t) :
    r = .next t ∧ s.storesIntoText t = false := by
  cases r with
  | next u =>
    simp only [State.settle] at h
    split at h
    · cases h
    · next k => cases h; exact ⟨rfl, by simpa using k⟩
  | fault f => cases h
  | refused q => cases h

/-- The stores a step makes are those its state's record has beyond the record before it. -/
theorem State.storesIntoText_of {s t : State} {l : List Nat} (h : t.stored = l ++ s.stored) :
    s.storesIntoText t = l.any t.mayExecute := by
  simp [State.storesIntoText, h]

theorem State.storesIntoText_self (s : State) : s.storesIntoText s = false := State.storesIntoText_of (l := []) rfl

/-- What may execute once the bytes of `l` have executed as well. -/
theorem State.mayExecute_of {s t : State} {l : List Nat} (h1 : t.text = s.text) (h2 : t.executed = l.foldl recorded s.executed)
    (a : Nat) : t.mayExecute a = true ↔ a ∈ l ∨ s.mayExecute a = true := by
  simp only [State.mayExecute, h1, h2, Bool.or_eq_true, List.contains_iff_mem, mem_foldl_recorded]
  tauto

theorem State.mayExecute_executing (s : State) (n a : Nat) :
    (s.executing n).mayExecute a = true ↔ a ∈ s.codeAddrs s.ip n ∨ s.mayExecute a = true :=
  State.mayExecute_of (s := s) (t := s.executing n) (l := s.codeAddrs s.ip n) rfl rfl a

/-- A loaded program is program text, beside what was program text before. -/
theorem State.mayExecute_load (s : State) (o : Word) (code : Bytes) (a : Nat) :
    (s.load o code).mayExecute a = true ↔ a ∈ s.codeAddrs o code.length ∨ s.mayExecute a = true := by
  have h : ∀ (code : Bytes) (o : Word) (s : State), (s.storeCode o code).executed = s.executed := by
    intro code
    induction code with
    | nil => intro o s; rfl
    | cons b t ih => intro o s; exact ih _ _
  have e : ∀ x, Region.holds { base := x, size := 1 } a = true ↔ x = a := by
    intro x; simp only [Region.holds, Bool.and_eq_true, decide_eq_true_eq]; omega
  simp [State.load, State.mayExecute, h, e, or_assoc]

theorem State.textIsFixed_iff (s : State) : s.textIsFixed = true ↔ ∀ a ∈ s.stored, s.mayExecute a = false := by
  simp [State.textIsFixed]

/-- Program text stays fixed through a step that stores nothing into it. -/
theorem State.textIsFixed_of {s t : State} (hs : ∀ a ∈ s.stored, t.mayExecute a = false) (h : s.stored <:+ t.stored)
    (hn : s.storesIntoText t = false) : t.textIsFixed = true := by
  obtain ⟨l, hl⟩ := h
  rw [State.storesIntoText_of hl.symm] at hn
  simp only [State.textIsFixed, List.all_eq_true, Bool.not_eq_true', List.any_eq_false] at *
  intro a ha
  rw [← hl, List.mem_append] at ha
  rcases ha with ha | ha
  · simpa using hn a ha
  · simpa using hs a ha

theorem State.storedFrom_eq_false (s : State) (o : Word) (n : Nat) :
    s.storedFrom o n = false ↔ ∀ a ∈ s.codeAddrs o n, a ∉ s.stored := by
  simp [State.storedFrom]

/-! ### The prefetch queue -/

theorem State.queueIsCoherent_iff (s : State) :
    s.queueIsCoherent = true ↔ ∀ c ∈ s.queue, c.1 ∉ s.stored → s.mem.read c.1 = c.2 := by
  simp only [State.queueIsCoherent, List.all_eq_true, Bool.or_eq_true, List.contains_iff_mem, beq_iff_eq]
  exact forall₂_congr fun c _ => or_iff_not_imp_left

/-- What every meaning keeps keeps the queue coherent. -/
theorem State.queueIsCoherent_of_tracked {s t : State} (h : s.tracked t) (c : s.queueIsCoherent = true) :
    t.queueIsCoherent = true := by
  rw [State.queueIsCoherent_iff] at c ⊢
  obtain ⟨-, -, h2, h3, h4 | h4⟩ := h <;> intro x hx hn <;> rw [h4] at hx
  · rw [h3 _ hn]; exact c x hx fun e => hn (h2.subset e)
  · cases hx

theorem queueFind_mem {q : List Host.Cell} {a : Nat} {v : Byte} (h : queueFind q a = some v) : (a, v) ∈ q := by
  induction q with
  | nil => cases h
  | cons c t ih =>
    simp only [queueFind] at h
    split at h
    · next e => cases h; subst e; exact .head _
    · exact .tail _ (ih h)

/-- What is fetched into the queue is coherent with memory, if what was in the queue is. -/
theorem State.queueFrom_coherent {s : State} (c : s.queueIsCoherent = true) (o : Word) (n : Nat) :
    ∀ x ∈ s.queueFrom o n, x.1 ∉ s.stored → s.mem.read x.1 = x.2 := by
  induction n generalizing o with
  | zero => intro x hx; cases hx
  | succ k ih =>
    intro x hx hn
    rcases List.mem_cons.mp hx with rfl | hx
    · unfold State.codeByte
      cases h : queueFind s.queue (s.codeAddr o) with
      | none => rfl
      | some v => exact (State.queueIsCoherent_iff s).mp c _ (queueFind_mem h) hn
    · exact ih _ x hx hn

/-! ### Strings -/

/-- Without a repeat prefix the primitive runs once. -/
theorem repeated_of_none (c : Bool) (once : State → State) {s : State} (h : s.pre.rep = none) :
    repeated c once s = once s := by
  unfold repeated; rw [h]

end Sys2Proof.Machine
end

