-- ==== Sys2Proof/Laws/Flags.lean ====
section
/-! SUPPORT. The flag computations in the words of Table C-3 (10_state.md R27). -/

namespace Sys2Proof.Machine

theorem parity8_even (b : Byte) : parity8 b = evenParity b := by
  revert b; decide +kernel

theorem evenParity_setWidth {w : Nat} (r : BitVec w) : evenParity (r.setWidth 8) = evenParity r := by
  unfold evenParity
  congr 2
  apply List.countP_congr
  intro i hi
  have : i < 8 := by simpa using hi
  simp [BitVec.getLsbD_setWidth, this, -BitVec.getLsbD_eq_getElem]

theorem Flags.szp_tellsResult (f : Flags) {w : Nat} (r : BitVec w) : (f.szp r).tellsResult r :=
  ⟨rfl, rfl, by rw [← evenParity_setWidth r, ← parity8_even]; rfl⟩

theorem addResult_eq {w : Nat} (a b : BitVec w) (c : Bool) : addResult a b c = a + b + BitVec.ofNat w (bitNat c) := by
  apply BitVec.eq_of_toNat_eq
  simp [addResult, BitVec.toNat_add]

theorem bitNat_le (c : Bool) : bitNat c ≤ 1 := by cases c <;> decide

/-- The sum does not fit when both operands have one sign and the result the other. -/
theorem add_overflow {w : Nat} (h : w = 8 ∨ w = 16) (a b : BitVec w) (c : Bool) :
    (!fitsSigned w (a.toInt + b.toInt + bitNat c)) =
      (a.msb == b.msb && (a + b + BitVec.ofNat w (bitNat c)).msb != a.msb) := by
  have hc := bitNat_le c
  have ha := a.isLt
  have hb := b.isLt
  have hr : (a + b + BitVec.ofNat w (bitNat c)).toNat = (a.toNat + b.toNat + bitNat c) % 2 ^ w := by
    simp [BitVec.toNat_add]
  rw [Bool.eq_iff_iff]
  simp only [fitsSigned, BitVec.toInt_eq_msb_cond, BitVec.msb_eq_decide, hr]
  rcases h with rfl | rfl <;>
    simp only [Bool.not_eq_true', decide_eq_false_iff_not, Bool.and_eq_true, beq_iff_eq, bne_iff_ne, ne_eq,
      decide_eq_decide, decide_eq_true_eq] <;> norm_num <;> omega

theorem sub_overflow {w : Nat} (h : w = 8 ∨ w = 16) (a b : BitVec w) (c : Bool) :
    (!fitsSigned w (a.toInt - b.toInt - bitNat c)) =
      (a.msb != b.msb && (a - b - BitVec.ofNat w (bitNat c)).msb != a.msb) := by
  have hc := bitNat_le c
  have ha := a.isLt
  have hb := b.isLt
  have hr : (a - b - BitVec.ofNat w (bitNat c)).toNat =
      (2 ^ w - bitNat c % 2 ^ w + (2 ^ w - b.toNat + a.toNat) % 2 ^ w) % 2 ^ w := by
    simp [BitVec.toNat_sub]
  rw [Bool.eq_iff_iff]
  simp only [fitsSigned, BitVec.toInt_eq_msb_cond, BitVec.msb_eq_decide, hr]
  rcases h with rfl | rfl <;>
    simp only [Bool.not_eq_true', decide_eq_false_iff_not, Bool.and_eq_true, bne_iff_ne, ne_eq,
      decide_eq_decide, decide_eq_true_eq] <;> norm_num <;> omega

theorem addFlags_afterAdd (f : Flags) {w : Nat} (h : w = 8 ∨ w = 16) (a b : BitVec w) (c : Bool) :
    f.afterAdd (addFlags f a b c) a b c := by
  refine ⟨rfl, rfl, add_overflow h a b c, ?_, rfl, rfl, rfl⟩
  rw [← addResult_eq]
  exact Flags.szp_tellsResult f (addResult a b c)

theorem subFlags_afterSub (f : Flags) {w : Nat} (h : w = 8 ∨ w = 16) (a b : BitVec w) (c : Bool) :
    f.afterSub (subFlags f a b c) a b c :=
  ⟨rfl, rfl, sub_overflow h a b c, Flags.szp_tellsResult f (subResult a b c), rfl, rfl, rfl⟩

theorem logicFlags_afterLogic (f : Flags) {w : Nat} (r : BitVec w) (u : Bool) :
    f.afterLogic (logicFlags f r u) r :=
  ⟨rfl, rfl, Flags.szp_tellsResult f r, rfl, rfl, rfl⟩

/-! ### Exact values -/

/-- Every value of a register fits its width. -/
theorem fitsSigned_toInt {w : Nat} (a : BitVec w) (h : 0 < w) : fitsSigned w a.toInt = true := by
  simp only [fitsSigned, decide_eq_true_eq]
  have h1 := a.toInt_lt
  have h2 := a.le_toInt
  have : 0 < w := h
  constructor <;> push_cast <;> omega

/-- A value that fits is what its low bits read as. -/
theorem toInt_ofInt_of_fits {w : Nat} {x : Int} (hw : 0 < w) (h : fitsSigned w x = true) :
    (BitVec.ofInt w x).toInt = x := by
  simp only [fitsSigned, decide_eq_true_eq] at h
  obtain ⟨k, rfl⟩ : ∃ k, w = k + 1 := ⟨w - 1, by omega⟩
  rw [BitVec.toInt_ofInt]
  have e : (2 ^ (k + 1) : Nat) = 2 * 2 ^ k := by rw [Nat.pow_succ]; omega
  simp only [Nat.add_sub_cancel] at h
  rw [e, Int.bmod_eq_of_le] <;> push_cast at * <;> omega

end Sys2Proof.Machine
end

