-- ==== Sys2Proof/Laws/PerInstr.lean ====
section
/-! SUPPORT. A family of laws made once per instruction: an instruction without its prefixes is 1 to 6 bytes long
(30_encoding.md R81). -/

open Sys2Proof

/-- The encoding of the instruction is 1 to `maxInstrBytes` bytes long. -/
def Sys2Proof.Laws.EncodingLength.Statement (i : Instr) : Prop :=
  1 ≤ (encode i).length ∧ (encode i).length ≤ maxInstrBytes

namespace Sys2Proof.Laws

theorem encodeRM_length (reg : BitVec 3) (x : RawRM) : 1 ≤ (encodeRM reg x).length ∧ (encodeRM reg x).length ≤ 3 := by
  cases x with
  | reg => exact ⟨Nat.le_add_left 1 _, Nat.le_of_ble_eq_true rfl⟩
  | mem m =>
    cases m with
    | direct => exact ⟨Nat.le_add_left 1 _, Nat.le_of_ble_eq_true rfl⟩
    | indexed b d => cases d <;> exact ⟨Nat.le_add_left 1 _, Nat.le_of_ble_eq_true rfl⟩

theorem rm_length (op : Byte) (reg : BitVec 3) (x : RawRM) :
    1 ≤ (op :: encodeRM reg x).length ∧ (op :: encodeRM reg x).length ≤ maxInstrBytes := by
  have := encodeRM_length reg x
  simp only [List.length_cons, maxInstrBytes]; omega

theorem rmByte_length (op : Byte) (reg : BitVec 3) (x : RawRM) (b : Byte) :
    1 ≤ (op :: encodeRM reg x ++ [b]).length ∧ (op :: encodeRM reg x ++ [b]).length ≤ maxInstrBytes := by
  have := encodeRM_length reg x
  simp only [List.length_append, List.length_cons, List.length_nil, maxInstrBytes]; omega

theorem rmWord_length (op : Byte) (reg : BitVec 3) (x : RawRM) (w : Word) :
    1 ≤ (op :: encodeRM reg x ++ wordBytes w).length ∧
      (op :: encodeRM reg x ++ wordBytes w).length ≤ maxInstrBytes := by
  have := encodeRM_length reg x
  simp only [List.length_append, List.length_cons, List.length_nil, wordBytes, maxInstrBytes]; omega

theorem encodeAlu_length (base : Byte) (ext : BitVec 3) (f : AluForm) :
    1 ≤ (encodeAlu base ext f).length ∧ (encodeAlu base ext f).length ≤ maxInstrBytes := by
  cases f with
  | rmReg8 | rmReg16 | regRm8 | regRm16 => exact rm_length _ _ _
  | al | ax => exact ⟨Nat.le_add_left 1 _, Nat.le_of_ble_eq_true rfl⟩
  | rmImm8 | rmImm8Alias | rmImmSx => exact rmByte_length _ _ _ _
  | rmImm16 => exact rmWord_length _ _ _ _

theorem encodeTest_length (f : TestForm) : 1 ≤ (encodeTest f).length ∧ (encodeTest f).length ≤ maxInstrBytes := by
  cases f with
  | rmReg8 | rmReg16 => exact rm_length _ _ _
  | al | ax => exact ⟨Nat.le_add_left 1 _, Nat.le_of_ble_eq_true rfl⟩
  | rmImm8 => exact rmByte_length _ _ _ _
  | rmImm16 => exact rmWord_length _ _ _ _

theorem encodeUnary_length (ext : BitVec 3) (f : UnaryForm) :
    1 ≤ (encodeUnary ext f).length ∧ (encodeUnary ext f).length ≤ maxInstrBytes := by
  cases f <;> exact rm_length _ _ _

theorem encodeInc_length (base : Byte) (ext : BitVec 3) (f : IncForm) :
    1 ≤ (encodeInc base ext f).length ∧ (encodeInc base ext f).length ≤ maxInstrBytes := by
  cases f with
  | reg16 => exact ⟨Nat.le_add_left 1 _, Nat.le_of_ble_eq_true rfl⟩
  | rm8 | rm16 => exact rm_length _ _ _

theorem encodeShift_length (ext : BitVec 3) (f : ShiftForm) :
    1 ≤ (encodeShift ext f).length ∧ (encodeShift ext f).length ≤ maxInstrBytes := by
  cases f with
  | rm8 rm c => cases c <;> first | exact rm_length _ _ _ | exact rmByte_length _ _ _ _
  | rm16 rm c => cases c <;> first | exact rm_length _ _ _ | exact rmByte_length _ _ _ _

theorem encodeMov_length (f : MovForm) : 1 ≤ (encodeMov f).length ∧ (encodeMov f).length ≤ maxInstrBytes := by
  cases f with
  | rmReg8 | rmReg16 | regRm8 | regRm16 => exact rm_length _ _ _
  | alMem | axMem | memAl | memAx | regImm8 | regImm16 => exact ⟨Nat.le_add_left 1 _, Nat.le_of_ble_eq_true rfl⟩
  | rmImm8 => exact rmByte_length _ _ _ _
  | rmImm16 => exact rmWord_length _ _ _ _

theorem encodeXchg_length (f : XchgForm) : 1 ≤ (encodeXchg f).length ∧ (encodeXchg f).length ≤ maxInstrBytes := by
  cases f <;> exact rm_length _ _ _

theorem encodeString_length (op : Byte) (w : Width) :
    1 ≤ (encodeString op w).length ∧ (encodeString op w).length ≤ maxInstrBytes := by
  cases w <;> exact ⟨Nat.le_add_left 1 _, Nat.le_of_ble_eq_true rfl⟩

theorem encodePort_length (imm dx : Byte) (w : Width) (p : Port) :
    1 ≤ (encodePort imm dx w p).length ∧ (encodePort imm dx w p).length ≤ maxInstrBytes := by
  cases w <;> cases p <;> exact ⟨Nat.le_add_left 1 _, Nat.le_of_ble_eq_true rfl⟩

end Sys2Proof.Laws

open Sys2Proof.Laws

theorem Sys2Proof.Laws.EncodingLength.aaa : Sys2Proof.Laws.EncodingLength.Statement (.aaa) :=
  ⟨Nat.le_add_left 1 _, Nat.le_of_ble_eq_true rfl⟩

theorem Sys2Proof.Laws.EncodingLength.aad : Sys2Proof.Laws.EncodingLength.Statement (.aad) :=
  ⟨Nat.le_add_left 1 _, Nat.le_of_ble_eq_true rfl⟩

theorem Sys2Proof.Laws.EncodingLength.aam : Sys2Proof.Laws.EncodingLength.Statement (.aam) :=
  ⟨Nat.le_add_left 1 _, Nat.le_of_ble_eq_true rfl⟩

theorem Sys2Proof.Laws.EncodingLength.aas : Sys2Proof.Laws.EncodingLength.Statement (.aas) :=
  ⟨Nat.le_add_left 1 _, Nat.le_of_ble_eq_true rfl⟩

theorem Sys2Proof.Laws.EncodingLength.adc (f : AluForm) : Sys2Proof.Laws.EncodingLength.Statement (.adc f) :=
  encodeAlu_length _ _ f

theorem Sys2Proof.Laws.EncodingLength.add (f : AluForm) : Sys2Proof.Laws.EncodingLength.Statement (.add f) :=
  encodeAlu_length _ _ f

theorem Sys2Proof.Laws.EncodingLength.cbw : Sys2Proof.Laws.EncodingLength.Statement (.cbw) :=
  ⟨Nat.le_add_left 1 _, Nat.le_of_ble_eq_true rfl⟩

theorem Sys2Proof.Laws.EncodingLength.cmp (f : AluForm) : Sys2Proof.Laws.EncodingLength.Statement (.cmp f) :=
  encodeAlu_length _ _ f

theorem Sys2Proof.Laws.EncodingLength.cwd : Sys2Proof.Laws.EncodingLength.Statement (.cwd) :=
  ⟨Nat.le_add_left 1 _, Nat.le_of_ble_eq_true rfl⟩

theorem Sys2Proof.Laws.EncodingLength.daa : Sys2Proof.Laws.EncodingLength.Statement (.daa) :=
  ⟨Nat.le_add_left 1 _, Nat.le_of_ble_eq_true rfl⟩

theorem Sys2Proof.Laws.EncodingLength.das : Sys2Proof.Laws.EncodingLength.Statement (.das) :=
  ⟨Nat.le_add_left 1 _, Nat.le_of_ble_eq_true rfl⟩

theorem Sys2Proof.Laws.EncodingLength.dec (f : IncForm) : Sys2Proof.Laws.EncodingLength.Statement (.dec f) :=
  encodeInc_length _ _ f

theorem Sys2Proof.Laws.EncodingLength.div (f : UnaryForm) : Sys2Proof.Laws.EncodingLength.Statement (.div f) :=
  encodeUnary_length _ f

theorem Sys2Proof.Laws.EncodingLength.idiv (f : UnaryForm) : Sys2Proof.Laws.EncodingLength.Statement (.idiv f) :=
  encodeUnary_length _ f

theorem Sys2Proof.Laws.EncodingLength.imul (f : UnaryForm) : Sys2Proof.Laws.EncodingLength.Statement (.imul f) :=
  encodeUnary_length _ f

theorem Sys2Proof.Laws.EncodingLength.imulImm16 (r : Reg16) (rm : RM16) (imm : Word) : Sys2Proof.Laws.EncodingLength.Statement (.imulImm16 r rm imm) :=
  rmWord_length _ _ _ _

theorem Sys2Proof.Laws.EncodingLength.imulImm8 (r : Reg16) (rm : RM16) (imm : Byte) : Sys2Proof.Laws.EncodingLength.Statement (.imulImm8 r rm imm) :=
  rmByte_length _ _ _ _

theorem Sys2Proof.Laws.EncodingLength.inc (f : IncForm) : Sys2Proof.Laws.EncodingLength.Statement (.inc f) :=
  encodeInc_length _ _ f

theorem Sys2Proof.Laws.EncodingLength.mul (f : UnaryForm) : Sys2Proof.Laws.EncodingLength.Statement (.mul f) :=
  encodeUnary_length _ f

theorem Sys2Proof.Laws.EncodingLength.neg (f : UnaryForm) : Sys2Proof.Laws.EncodingLength.Statement (.neg f) :=
  encodeUnary_length _ f

theorem Sys2Proof.Laws.EncodingLength.sbb (f : AluForm) : Sys2Proof.Laws.EncodingLength.Statement (.sbb f) :=
  encodeAlu_length _ _ f

theorem Sys2Proof.Laws.EncodingLength.sub (f : AluForm) : Sys2Proof.Laws.EncodingLength.Statement (.sub f) :=
  encodeAlu_length _ _ f

theorem Sys2Proof.Laws.EncodingLength.and (f : AluForm) : Sys2Proof.Laws.EncodingLength.Statement (.and f) :=
  encodeAlu_length _ _ f

theorem Sys2Proof.Laws.EncodingLength.not (f : UnaryForm) : Sys2Proof.Laws.EncodingLength.Statement (.not f) :=
  encodeUnary_length _ f

theorem Sys2Proof.Laws.EncodingLength.or (f : AluForm) : Sys2Proof.Laws.EncodingLength.Statement (.or f) :=
  encodeAlu_length _ _ f

theorem Sys2Proof.Laws.EncodingLength.test (f : TestForm) : Sys2Proof.Laws.EncodingLength.Statement (.test f) :=
  encodeTest_length f

theorem Sys2Proof.Laws.EncodingLength.xor (f : AluForm) : Sys2Proof.Laws.EncodingLength.Statement (.xor f) :=
  encodeAlu_length _ _ f

theorem Sys2Proof.Laws.EncodingLength.rcl (f : ShiftForm) : Sys2Proof.Laws.EncodingLength.Statement (.rcl f) :=
  encodeShift_length _ f

theorem Sys2Proof.Laws.EncodingLength.rcr (f : ShiftForm) : Sys2Proof.Laws.EncodingLength.Statement (.rcr f) :=
  encodeShift_length _ f

theorem Sys2Proof.Laws.EncodingLength.rol (f : ShiftForm) : Sys2Proof.Laws.EncodingLength.Statement (.rol f) :=
  encodeShift_length _ f

theorem Sys2Proof.Laws.EncodingLength.ror (f : ShiftForm) : Sys2Proof.Laws.EncodingLength.Statement (.ror f) :=
  encodeShift_length _ f

theorem Sys2Proof.Laws.EncodingLength.shl (f : ShiftForm) : Sys2Proof.Laws.EncodingLength.Statement (.shl f) :=
  encodeShift_length _ f

theorem Sys2Proof.Laws.EncodingLength.sar (f : ShiftForm) : Sys2Proof.Laws.EncodingLength.Statement (.sar f) :=
  encodeShift_length _ f

theorem Sys2Proof.Laws.EncodingLength.shr (f : ShiftForm) : Sys2Proof.Laws.EncodingLength.Statement (.shr f) :=
  encodeShift_length _ f

theorem Sys2Proof.Laws.EncodingLength.bound (r : Reg16) (m : MemOp) : Sys2Proof.Laws.EncodingLength.Statement (.bound r m) :=
  rm_length _ _ _

theorem Sys2Proof.Laws.EncodingLength.callNear (disp : Word) : Sys2Proof.Laws.EncodingLength.Statement (.callNear disp) :=
  ⟨Nat.le_add_left 1 _, Nat.le_of_ble_eq_true rfl⟩

theorem Sys2Proof.Laws.EncodingLength.callNearInd (rm : RM16) : Sys2Proof.Laws.EncodingLength.Statement (.callNearInd rm) :=
  rm_length _ _ _

theorem Sys2Proof.Laws.EncodingLength.callFar (offset segment : Word) : Sys2Proof.Laws.EncodingLength.Statement (.callFar offset segment) :=
  ⟨Nat.le_add_left 1 _, Nat.le_of_ble_eq_true rfl⟩

theorem Sys2Proof.Laws.EncodingLength.callFarInd (m : MemOp) : Sys2Proof.Laws.EncodingLength.Statement (.callFarInd m) :=
  rm_length _ _ _

theorem Sys2Proof.Laws.EncodingLength.int (t : Byte) : Sys2Proof.Laws.EncodingLength.Statement (.int t) :=
  ⟨Nat.le_add_left 1 _, Nat.le_of_ble_eq_true rfl⟩

theorem Sys2Proof.Laws.EncodingLength.int3 : Sys2Proof.Laws.EncodingLength.Statement (.int3) :=
  ⟨Nat.le_add_left 1 _, Nat.le_of_ble_eq_true rfl⟩

theorem Sys2Proof.Laws.EncodingLength.into : Sys2Proof.Laws.EncodingLength.Statement (.into) :=
  ⟨Nat.le_add_left 1 _, Nat.le_of_ble_eq_true rfl⟩

theorem Sys2Proof.Laws.EncodingLength.iret : Sys2Proof.Laws.EncodingLength.Statement (.iret) :=
  ⟨Nat.le_add_left 1 _, Nat.le_of_ble_eq_true rfl⟩

theorem Sys2Proof.Laws.EncodingLength.ja (disp : Byte) : Sys2Proof.Laws.EncodingLength.Statement (.ja disp) :=
  ⟨Nat.le_add_left 1 _, Nat.le_of_ble_eq_true rfl⟩

theorem Sys2Proof.Laws.EncodingLength.jae (disp : Byte) : Sys2Proof.Laws.EncodingLength.Statement (.jae disp) :=
  ⟨Nat.le_add_left 1 _, Nat.le_of_ble_eq_true rfl⟩

theorem Sys2Proof.Laws.EncodingLength.jb (disp : Byte) : Sys2Proof.Laws.EncodingLength.Statement (.jb disp) :=
  ⟨Nat.le_add_left 1 _, Nat.le_of_ble_eq_true rfl⟩

theorem Sys2Proof.Laws.EncodingLength.jbe (disp : Byte) : Sys2Proof.Laws.EncodingLength.Statement (.jbe disp) :=
  ⟨Nat.le_add_left 1 _, Nat.le_of_ble_eq_true rfl⟩

theorem Sys2Proof.Laws.EncodingLength.jcxz (disp : Byte) : Sys2Proof.Laws.EncodingLength.Statement (.jcxz disp) :=
  ⟨Nat.le_add_left 1 _, Nat.le_of_ble_eq_true rfl⟩

theorem Sys2Proof.Laws.EncodingLength.je (disp : Byte) : Sys2Proof.Laws.EncodingLength.Statement (.je disp) :=
  ⟨Nat.le_add_left 1 _, Nat.le_of_ble_eq_true rfl⟩

theorem Sys2Proof.Laws.EncodingLength.jg (disp : Byte) : Sys2Proof.Laws.EncodingLength.Statement (.jg disp) :=
  ⟨Nat.le_add_left 1 _, Nat.le_of_ble_eq_true rfl⟩

theorem Sys2Proof.Laws.EncodingLength.jge (disp : Byte) : Sys2Proof.Laws.EncodingLength.Statement (.jge disp) :=
  ⟨Nat.le_add_left 1 _, Nat.le_of_ble_eq_true rfl⟩

theorem Sys2Proof.Laws.EncodingLength.jl (disp : Byte) : Sys2Proof.Laws.EncodingLength.Statement (.jl disp) :=
  ⟨Nat.le_add_left 1 _, Nat.le_of_ble_eq_true rfl⟩

theorem Sys2Proof.Laws.EncodingLength.jle (disp : Byte) : Sys2Proof.Laws.EncodingLength.Statement (.jle disp) :=
  ⟨Nat.le_add_left 1 _, Nat.le_of_ble_eq_true rfl⟩

theorem Sys2Proof.Laws.EncodingLength.jne (disp : Byte) : Sys2Proof.Laws.EncodingLength.Statement (.jne disp) :=
  ⟨Nat.le_add_left 1 _, Nat.le_of_ble_eq_true rfl⟩

theorem Sys2Proof.Laws.EncodingLength.jno (disp : Byte) : Sys2Proof.Laws.EncodingLength.Statement (.jno disp) :=
  ⟨Nat.le_add_left 1 _, Nat.le_of_ble_eq_true rfl⟩

theorem Sys2Proof.Laws.EncodingLength.jns (disp : Byte) : Sys2Proof.Laws.EncodingLength.Statement (.jns disp) :=
  ⟨Nat.le_add_left 1 _, Nat.le_of_ble_eq_true rfl⟩

theorem Sys2Proof.Laws.EncodingLength.jnp (disp : Byte) : Sys2Proof.Laws.EncodingLength.Statement (.jnp disp) :=
  ⟨Nat.le_add_left 1 _, Nat.le_of_ble_eq_true rfl⟩

theorem Sys2Proof.Laws.EncodingLength.jo (disp : Byte) : Sys2Proof.Laws.EncodingLength.Statement (.jo disp) :=
  ⟨Nat.le_add_left 1 _, Nat.le_of_ble_eq_true rfl⟩

theorem Sys2Proof.Laws.EncodingLength.jp (disp : Byte) : Sys2Proof.Laws.EncodingLength.Statement (.jp disp) :=
  ⟨Nat.le_add_left 1 _, Nat.le_of_ble_eq_true rfl⟩

theorem Sys2Proof.Laws.EncodingLength.js (disp : Byte) : Sys2Proof.Laws.EncodingLength.Statement (.js disp) :=
  ⟨Nat.le_add_left 1 _, Nat.le_of_ble_eq_true rfl⟩

theorem Sys2Proof.Laws.EncodingLength.jmpShort (disp : Byte) : Sys2Proof.Laws.EncodingLength.Statement (.jmpShort disp) :=
  ⟨Nat.le_add_left 1 _, Nat.le_of_ble_eq_true rfl⟩

theorem Sys2Proof.Laws.EncodingLength.jmpNear (disp : Word) : Sys2Proof.Laws.EncodingLength.Statement (.jmpNear disp) :=
  ⟨Nat.le_add_left 1 _, Nat.le_of_ble_eq_true rfl⟩

theorem Sys2Proof.Laws.EncodingLength.jmpNearInd (rm : RM16) : Sys2Proof.Laws.EncodingLength.Statement (.jmpNearInd rm) :=
  rm_length _ _ _

theorem Sys2Proof.Laws.EncodingLength.jmpFar (offset segment : Word) : Sys2Proof.Laws.EncodingLength.Statement (.jmpFar offset segment) :=
  ⟨Nat.le_add_left 1 _, Nat.le_of_ble_eq_true rfl⟩

theorem Sys2Proof.Laws.EncodingLength.jmpFarInd (m : MemOp) : Sys2Proof.Laws.EncodingLength.Statement (.jmpFarInd m) :=
  rm_length _ _ _

theorem Sys2Proof.Laws.EncodingLength.loop (disp : Byte) : Sys2Proof.Laws.EncodingLength.Statement (.loop disp) :=
  ⟨Nat.le_add_left 1 _, Nat.le_of_ble_eq_true rfl⟩

theorem Sys2Proof.Laws.EncodingLength.loope (disp : Byte) : Sys2Proof.Laws.EncodingLength.Statement (.loope disp) :=
  ⟨Nat.le_add_left 1 _, Nat.le_of_ble_eq_true rfl⟩

theorem Sys2Proof.Laws.EncodingLength.loopne (disp : Byte) : Sys2Proof.Laws.EncodingLength.Statement (.loopne disp) :=
  ⟨Nat.le_add_left 1 _, Nat.le_of_ble_eq_true rfl⟩

theorem Sys2Proof.Laws.EncodingLength.ret : Sys2Proof.Laws.EncodingLength.Statement (.ret) :=
  ⟨Nat.le_add_left 1 _, Nat.le_of_ble_eq_true rfl⟩

theorem Sys2Proof.Laws.EncodingLength.retPop (n : Word) : Sys2Proof.Laws.EncodingLength.Statement (.retPop n) :=
  ⟨Nat.le_add_left 1 _, Nat.le_of_ble_eq_true rfl⟩

theorem Sys2Proof.Laws.EncodingLength.retFar : Sys2Proof.Laws.EncodingLength.Statement (.retFar) :=
  ⟨Nat.le_add_left 1 _, Nat.le_of_ble_eq_true rfl⟩

theorem Sys2Proof.Laws.EncodingLength.retFarPop (n : Word) : Sys2Proof.Laws.EncodingLength.Statement (.retFarPop n) :=
  ⟨Nat.le_add_left 1 _, Nat.le_of_ble_eq_true rfl⟩

theorem Sys2Proof.Laws.EncodingLength.clc : Sys2Proof.Laws.EncodingLength.Statement (.clc) :=
  ⟨Nat.le_add_left 1 _, Nat.le_of_ble_eq_true rfl⟩

theorem Sys2Proof.Laws.EncodingLength.cld : Sys2Proof.Laws.EncodingLength.Statement (.cld) :=
  ⟨Nat.le_add_left 1 _, Nat.le_of_ble_eq_true rfl⟩

theorem Sys2Proof.Laws.EncodingLength.cli : Sys2Proof.Laws.EncodingLength.Statement (.cli) :=
  ⟨Nat.le_add_left 1 _, Nat.le_of_ble_eq_true rfl⟩

theorem Sys2Proof.Laws.EncodingLength.cmc : Sys2Proof.Laws.EncodingLength.Statement (.cmc) :=
  ⟨Nat.le_add_left 1 _, Nat.le_of_ble_eq_true rfl⟩

theorem Sys2Proof.Laws.EncodingLength.stc : Sys2Proof.Laws.EncodingLength.Statement (.stc) :=
  ⟨Nat.le_add_left 1 _, Nat.le_of_ble_eq_true rfl⟩

theorem Sys2Proof.Laws.EncodingLength.std : Sys2Proof.Laws.EncodingLength.Statement (.std) :=
  ⟨Nat.le_add_left 1 _, Nat.le_of_ble_eq_true rfl⟩

theorem Sys2Proof.Laws.EncodingLength.sti : Sys2Proof.Laws.EncodingLength.Statement (.sti) :=
  ⟨Nat.le_add_left 1 _, Nat.le_of_ble_eq_true rfl⟩

theorem Sys2Proof.Laws.EncodingLength.lahf : Sys2Proof.Laws.EncodingLength.Statement (.lahf) :=
  ⟨Nat.le_add_left 1 _, Nat.le_of_ble_eq_true rfl⟩

theorem Sys2Proof.Laws.EncodingLength.sahf : Sys2Proof.Laws.EncodingLength.Statement (.sahf) :=
  ⟨Nat.le_add_left 1 _, Nat.le_of_ble_eq_true rfl⟩

theorem Sys2Proof.Laws.EncodingLength.nop : Sys2Proof.Laws.EncodingLength.Statement (.nop) :=
  ⟨Nat.le_add_left 1 _, Nat.le_of_ble_eq_true rfl⟩

theorem Sys2Proof.Laws.EncodingLength.lock : Sys2Proof.Laws.EncodingLength.Statement (.lock) :=
  ⟨Nat.le_add_left 1 _, Nat.le_of_ble_eq_true rfl⟩

theorem Sys2Proof.Laws.EncodingLength.seg (r : SegReg) : Sys2Proof.Laws.EncodingLength.Statement (.seg r) :=
  ⟨Nat.le_add_left 1 _, Nat.le_of_ble_eq_true rfl⟩

theorem Sys2Proof.Laws.EncodingLength.esc (opcode : BitVec 6) (rm : RM16) : Sys2Proof.Laws.EncodingLength.Statement (.esc opcode rm) :=
  rm_length _ _ _

theorem Sys2Proof.Laws.EncodingLength.hlt : Sys2Proof.Laws.EncodingLength.Statement (.hlt) :=
  ⟨Nat.le_add_left 1 _, Nat.le_of_ble_eq_true rfl⟩

theorem Sys2Proof.Laws.EncodingLength.wait : Sys2Proof.Laws.EncodingLength.Statement (.wait) :=
  ⟨Nat.le_add_left 1 _, Nat.le_of_ble_eq_true rfl⟩

theorem Sys2Proof.Laws.EncodingLength.cmps (w : Width) : Sys2Proof.Laws.EncodingLength.Statement (.cmps w) :=
  encodeString_length _ w

theorem Sys2Proof.Laws.EncodingLength.ins (w : Width) : Sys2Proof.Laws.EncodingLength.Statement (.ins w) :=
  encodeString_length _ w

theorem Sys2Proof.Laws.EncodingLength.lods (w : Width) : Sys2Proof.Laws.EncodingLength.Statement (.lods w) :=
  encodeString_length _ w

theorem Sys2Proof.Laws.EncodingLength.movs (w : Width) : Sys2Proof.Laws.EncodingLength.Statement (.movs w) :=
  encodeString_length _ w

theorem Sys2Proof.Laws.EncodingLength.outs (w : Width) : Sys2Proof.Laws.EncodingLength.Statement (.outs w) :=
  encodeString_length _ w

theorem Sys2Proof.Laws.EncodingLength.scas (w : Width) : Sys2Proof.Laws.EncodingLength.Statement (.scas w) :=
  encodeString_length _ w

theorem Sys2Proof.Laws.EncodingLength.stos (w : Width) : Sys2Proof.Laws.EncodingLength.Statement (.stos w) :=
  encodeString_length _ w

theorem Sys2Proof.Laws.EncodingLength.rep : Sys2Proof.Laws.EncodingLength.Statement (.rep) :=
  ⟨Nat.le_add_left 1 _, Nat.le_of_ble_eq_true rfl⟩

theorem Sys2Proof.Laws.EncodingLength.repne : Sys2Proof.Laws.EncodingLength.Statement (.repne) :=
  ⟨Nat.le_add_left 1 _, Nat.le_of_ble_eq_true rfl⟩

theorem Sys2Proof.Laws.EncodingLength.enter (locals : Word) (level : Byte) : Sys2Proof.Laws.EncodingLength.Statement (.enter locals level) :=
  ⟨Nat.le_add_left 1 _, Nat.le_of_ble_eq_true rfl⟩

theorem Sys2Proof.Laws.EncodingLength.leave : Sys2Proof.Laws.EncodingLength.Statement (.leave) :=
  ⟨Nat.le_add_left 1 _, Nat.le_of_ble_eq_true rfl⟩

theorem Sys2Proof.Laws.EncodingLength.inPort (w : Width) (p : Port) : Sys2Proof.Laws.EncodingLength.Statement (.inPort w p) :=
  encodePort_length _ _ w p

theorem Sys2Proof.Laws.EncodingLength.outPort (w : Width) (p : Port) : Sys2Proof.Laws.EncodingLength.Statement (.outPort w p) :=
  encodePort_length _ _ w p

theorem Sys2Proof.Laws.EncodingLength.lds (r : Reg16) (m : MemOp) : Sys2Proof.Laws.EncodingLength.Statement (.lds r m) :=
  rm_length _ _ _

theorem Sys2Proof.Laws.EncodingLength.lea (r : Reg16) (m : MemOp) : Sys2Proof.Laws.EncodingLength.Statement (.lea r m) :=
  rm_length _ _ _

theorem Sys2Proof.Laws.EncodingLength.les (r : Reg16) (m : MemOp) : Sys2Proof.Laws.EncodingLength.Statement (.les r m) :=
  rm_length _ _ _

theorem Sys2Proof.Laws.EncodingLength.mov (f : MovForm) : Sys2Proof.Laws.EncodingLength.Statement (.mov f) :=
  encodeMov_length f

theorem Sys2Proof.Laws.EncodingLength.movFromSeg (rm : RM16) (sr : SegReg) : Sys2Proof.Laws.EncodingLength.Statement (.movFromSeg rm sr) :=
  rm_length _ _ _

theorem Sys2Proof.Laws.EncodingLength.movToSeg (sr : SegReg) (rm : RM16) : Sys2Proof.Laws.EncodingLength.Statement (.movToSeg sr rm) :=
  rm_length _ _ _

theorem Sys2Proof.Laws.EncodingLength.popReg (r : Reg16) : Sys2Proof.Laws.EncodingLength.Statement (.popReg r) :=
  ⟨Nat.le_add_left 1 _, Nat.le_of_ble_eq_true rfl⟩

theorem Sys2Proof.Laws.EncodingLength.popRm (rm : RM16) : Sys2Proof.Laws.EncodingLength.Statement (.popRm rm) :=
  rm_length _ _ _

theorem Sys2Proof.Laws.EncodingLength.popSeg (sr : SegReg) : Sys2Proof.Laws.EncodingLength.Statement (.popSeg sr) :=
  ⟨Nat.le_add_left 1 _, Nat.le_of_ble_eq_true rfl⟩

theorem Sys2Proof.Laws.EncodingLength.popa : Sys2Proof.Laws.EncodingLength.Statement (.popa) :=
  ⟨Nat.le_add_left 1 _, Nat.le_of_ble_eq_true rfl⟩

theorem Sys2Proof.Laws.EncodingLength.popf : Sys2Proof.Laws.EncodingLength.Statement (.popf) :=
  ⟨Nat.le_add_left 1 _, Nat.le_of_ble_eq_true rfl⟩

theorem Sys2Proof.Laws.EncodingLength.pushReg (r : Reg16) : Sys2Proof.Laws.EncodingLength.Statement (.pushReg r) :=
  ⟨Nat.le_add_left 1 _, Nat.le_of_ble_eq_true rfl⟩

theorem Sys2Proof.Laws.EncodingLength.pushRm (rm : RM16) : Sys2Proof.Laws.EncodingLength.Statement (.pushRm rm) :=
  rm_length _ _ _

theorem Sys2Proof.Laws.EncodingLength.pushSeg (sr : SegReg) : Sys2Proof.Laws.EncodingLength.Statement (.pushSeg sr) :=
  ⟨Nat.le_add_left 1 _, Nat.le_of_ble_eq_true rfl⟩

theorem Sys2Proof.Laws.EncodingLength.pushImm16 (imm : Word) : Sys2Proof.Laws.EncodingLength.Statement (.pushImm16 imm) :=
  ⟨Nat.le_add_left 1 _, Nat.le_of_ble_eq_true rfl⟩

theorem Sys2Proof.Laws.EncodingLength.pushImm8 (imm : Byte) : Sys2Proof.Laws.EncodingLength.Statement (.pushImm8 imm) :=
  ⟨Nat.le_add_left 1 _, Nat.le_of_ble_eq_true rfl⟩

theorem Sys2Proof.Laws.EncodingLength.pusha : Sys2Proof.Laws.EncodingLength.Statement (.pusha) :=
  ⟨Nat.le_add_left 1 _, Nat.le_of_ble_eq_true rfl⟩

theorem Sys2Proof.Laws.EncodingLength.pushf : Sys2Proof.Laws.EncodingLength.Statement (.pushf) :=
  ⟨Nat.le_add_left 1 _, Nat.le_of_ble_eq_true rfl⟩

theorem Sys2Proof.Laws.EncodingLength.xchg (f : XchgForm) : Sys2Proof.Laws.EncodingLength.Statement (.xchg f) :=
  encodeXchg_length f

theorem Sys2Proof.Laws.EncodingLength.xchgAx (r : Reg16) : Sys2Proof.Laws.EncodingLength.Statement (.xchgAx r) :=
  ⟨Nat.le_add_left 1 _, Nat.le_of_ble_eq_true rfl⟩

theorem Sys2Proof.Laws.EncodingLength.xlat : Sys2Proof.Laws.EncodingLength.Statement (.xlat) :=
  ⟨Nat.le_add_left 1 _, Nat.le_of_ble_eq_true rfl⟩
end

