-- ==== Sys2Proof/Tests/Slice0.lean ====
section
/-! SUPPORT. The author's tests: ill-formed terms refused, words written out from 30_encoding.md decoded, one step of each
instruction on the vectors of 95_test_vectors.md, and for every statement with hypotheses a state that meets them. -/

namespace Sys2Proof.Tests

open Sys2Proof Sys2Proof.Machine

/-! ### Ill-formed terms -/

/-- 30_encoding.md R85: `mod` = 00, `r/m` = 110 is the direct address, so BP alone has no encoding. -/
theorem test_illformed_bp : (Instr.mov (.regRm16 .ax (.mem (.indexed .bp .none)))).wellFormed = false := by decide

theorem test_illformed_bp_byte : (Instr.not (.rm8 (.mem (.indexed .bp .none)))).wellFormed = false := by decide

theorem test_illformed_lea_bp : (Instr.lea .ax (.indexed .bp .none)).wellFormed = false := by decide

/-- 45_data_transfer.md R308: CS is no destination of MOV. -/
theorem test_illformed_mov_cs : (Instr.movToSeg .cs (.reg .ax)).wellFormed = false := by decide

/-- 45_data_transfer.md R310: CS is no destination of POP. -/
theorem test_illformed_pop_cs : (Instr.popSeg .cs).wellFormed = false := by decide

/-- 30_encoding.md R100: the byte 90H is NOP. -/
theorem test_illformed_xchg_ax : (Instr.xchgAx .ax).wellFormed = false := by decide

/-! ### Decoding and encoding words written out from 30_encoding.md R90 and R92 -/

/-- The bytes decode to the well-formed instruction with nothing left, and the instruction encodes to the bytes. -/
def reads (bytes : Bytes) (i : Instr) : Bool :=
  i.wellFormed && encode i == bytes &&
    match decode bytes with
    | .ok (j, rest) => j == i && rest.isEmpty
    | .error _ => false

theorem test_decode_arithmetic1 :
    ([
    ([0x37], .aaa),
    ([0xD5, 0x0A], .aad),
    ([0xD4, 0x0A], .aam),
    ([0x3F], .aas),
    ([0x13, 0xC3], .adc (.regRm16 .ax (.reg .bx))),
    ([0x14, 0x7F], .adc (.al 0x7F)),
    ([0x01, 0xC8], .add (.rmReg16 (.reg .ax) .cx)),
    ([0x02, 0x07], .add (.regRm8 .al (.mem (.indexed .bx .none)))),
    ([0x83, 0xC3, 0xFF], .add (.rmImmSx (.reg .bx) 0xFF)),
    ([0x82, 0xC3, 0x01], .add (.rmImm8Alias (.reg .bl) 0x01)),
    ([0x98], .cbw),
    ([0x80, 0x3E, 0x00, 0x02, 0x0D], .cmp (.rmImm8 (.mem (.direct 0x0200)) 0x0D)),
    ([0x3C, 0x41], .cmp (.al 0x41)),
    ([0x99], .cwd),
    ([0x27], .daa),
    ([0x2F], .das),
    ([0x4A], .dec (.reg16 .dx)),
    ([0xFE, 0x0F], .dec (.rm8 (.mem (.indexed .bx .none))))
    ] : List (Bytes × Instr)).all (fun p => reads p.1 p.2) = true := by
  decide

theorem test_decode_arithmetic2 :
    ([
    ([0xF6, 0xF3], .div (.rm8 (.reg .bl))),
    ([0xF7, 0xF3], .div (.rm16 (.reg .bx))),
    ([0xF6, 0xF9], .idiv (.rm8 (.reg .cl))),
    ([0xF7, 0xEE], .imul (.rm16 (.reg .si))),
    ([0x69, 0xC3, 0xFE, 0xFF], .imulImm16 .ax (.reg .bx) 0xFFFE),
    ([0x6B, 0xD1, 0x80], .imulImm8 .dx (.reg .cx) 0x80),
    ([0x40], .inc (.reg16 .ax)),
    ([0xFF, 0x04], .inc (.rm16 (.mem (.indexed .si .none)))),
    ([0xF6, 0xE4], .mul (.rm8 (.reg .ah))),
    ([0xF7, 0x5E, 0x04], .neg (.rm16 (.mem (.indexed .bp (.d8 0x04))))),
    ([0x1C, 0x05], .sbb (.al 0x05)),
    ([0x2D, 0x34, 0x12], .sub (.ax 0x1234)),
    ([0x28, 0x31], .sub (.rmReg8 (.mem (.indexed .bxDi .none)) .dh)),
    ([0x81, 0x06, 0x00, 0x10, 0x34, 0x12], .add (.rmImm16 (.mem (.direct 0x1000)) 0x1234))
    ] : List (Bytes × Instr)).all (fun p => reads p.1 p.2) = true := by
  decide

theorem test_decode_logic :
    ([
    ([0x20, 0xE0], .and (.rmReg8 (.reg .al) .ah)),
    ([0x25, 0x0F, 0xF0], .and (.ax 0xF00F)),
    ([0xF7, 0xD0], .not (.rm16 (.reg .ax))),
    ([0x0B, 0x82, 0x00, 0x80], .or (.regRm16 .ax (.mem (.indexed .bpSi (.d16 0x8000))))),
    ([0x84, 0xC3], .test (.rmReg8 (.reg .bl) .al)),
    ([0xF6, 0xC3, 0x81], .test (.rmImm8 (.reg .bl) 0x81)),
    ([0xA9, 0x00, 0x80], .test (.ax 0x8000)),
    ([0x30, 0xC0], .xor (.rmReg8 (.reg .al) .al)),
    ([0xD0, 0xD0], .rcl (.rm8 (.reg .al) .one)),
    ([0xD3, 0xDB], .rcr (.rm16 (.reg .bx) .cl)),
    ([0xC0, 0xC4, 0x07], .rol (.rm8 (.reg .ah) (.imm 7))),
    ([0xD1, 0x0F], .ror (.rm16 (.mem (.indexed .bx .none)) .one)),
    ([0xD3, 0xE0], .shl (.rm16 (.reg .ax) .cl)),
    ([0xC1, 0xE0, 0x04], .shl (.rm16 (.reg .ax) (.imm 4))),
    ([0xD0, 0xF8], .sar (.rm8 (.reg .al) .one)),
    ([0xD2, 0xEA], .shr (.rm8 (.reg .dl) .cl))
    ] : List (Bytes × Instr)).all (fun p => reads p.1 p.2) = true := by
  decide

theorem test_decode_control :
    ([
    ([0x62, 0x0E, 0x00, 0x10], .bound .cx (.direct 0x1000)),
    ([0xE8, 0x04, 0x00], .callNear 0x0004),
    ([0xFF, 0xD3], .callNearInd (.reg .bx)),
    ([0x9A, 0x00, 0x02, 0x00, 0x30], .callFar 0x0200 0x3000),
    ([0xFF, 0x1F], .callFarInd (.indexed .bx .none)),
    ([0xCD, 0x21], .int 0x21),
    ([0xCC], .int3),
    ([0xCE], .into),
    ([0xCF], .iret),
    ([0xEB, 0xFE], .jmpShort 0xFE),
    ([0xE9, 0xFD, 0xFF], .jmpNear 0xFFFD),
    ([0xFF, 0x27], .jmpNearInd (.mem (.indexed .bx .none))),
    ([0xEA, 0x00, 0x02, 0x00, 0x30], .jmpFar 0x0200 0x3000),
    ([0xFF, 0x2F], .jmpFarInd (.indexed .bx .none)),
    ([0xC3], .ret),
    ([0xC2, 0x04, 0x00], .retPop 4),
    ([0xCB], .retFar),
    ([0xCA, 0x02, 0x00], .retFarPop 2)
    ] : List (Bytes × Instr)).all (fun p => reads p.1 p.2) = true := by
  decide

theorem test_decode_jumps :
    ([
    ([0x70, 0x05], .jo 0x05),
    ([0x71, 0x05], .jno 0x05),
    ([0x72, 0x05], .jb 0x05),
    ([0x73, 0x05], .jae 0x05),
    ([0x74, 0x05], .je 0x05),
    ([0x75, 0x05], .jne 0x05),
    ([0x76, 0x05], .jbe 0x05),
    ([0x77, 0x05], .ja 0x05),
    ([0x78, 0x05], .js 0x05),
    ([0x79, 0x05], .jns 0x05),
    ([0x7A, 0x05], .jp 0x05),
    ([0x7B, 0x05], .jnp 0x05),
    ([0x7C, 0x05], .jl 0x05),
    ([0x7D, 0x05], .jge 0x05),
    ([0x7E, 0x05], .jle 0x05),
    ([0x7F, 0x05], .jg 0x05),
    ([0xE0, 0xFC], .loopne 0xFC),
    ([0xE1, 0xFC], .loope 0xFC),
    ([0xE2, 0xFC], .loop 0xFC),
    ([0xE3, 0x05], .jcxz 0x05)
    ] : List (Bytes × Instr)).all (fun p => reads p.1 p.2) = true := by
  decide

theorem test_decode_processor :
    ([
    ([0xF8], .clc),
    ([0xFC], .cld),
    ([0xFA], .cli),
    ([0xF5], .cmc),
    ([0xF9], .stc),
    ([0xFD], .std),
    ([0xFB], .sti),
    ([0x9F], .lahf),
    ([0x9E], .sahf),
    ([0x90], .nop),
    ([0xF0], .lock),
    ([0x26], .seg .es),
    ([0x2E], .seg .cs),
    ([0x36], .seg .ss),
    ([0x3E], .seg .ds),
    ([0xDB, 0xD1], .esc 0x1A (.reg .cx)),
    ([0xF4], .hlt),
    ([0x9B], .wait)
    ] : List (Bytes × Instr)).all (fun p => reads p.1 p.2) = true := by
  decide

theorem test_decode_strings :
    ([
    ([0xA6], .cmps .byte),
    ([0xA7], .cmps .word),
    ([0x6C], .ins .byte),
    ([0x6D], .ins .word),
    ([0xAC], .lods .byte),
    ([0xAD], .lods .word),
    ([0xA4], .movs .byte),
    ([0xA5], .movs .word),
    ([0x6E], .outs .byte),
    ([0x6F], .outs .word),
    ([0xAE], .scas .byte),
    ([0xAF], .scas .word),
    ([0xAA], .stos .byte),
    ([0xAB], .stos .word),
    ([0xF3], .rep),
    ([0xF2], .repne)
    ] : List (Bytes × Instr)).all (fun p => reads p.1 p.2) = true := by
  decide

theorem test_decode_transfer1 :
    ([
    ([0xC8, 0x04, 0x00, 0x01], .enter 4 1),
    ([0xC9], .leave),
    ([0xE4, 0x60], .inPort .byte (.imm 0x60)),
    ([0xED], .inPort .word .dx),
    ([0xE7, 0x80], .outPort .word (.imm 0x80)),
    ([0xEE], .outPort .byte .dx),
    ([0xC5, 0x36, 0x00, 0x01], .lds .si (.direct 0x0100)),
    ([0xC4, 0x3F], .les .di (.indexed .bx .none)),
    ([0x8D, 0x42, 0xFF], .lea .ax (.indexed .bpSi (.d8 0xFF))),
    ([0x8B, 0x46, 0xFE], .mov (.regRm16 .ax (.mem (.indexed .bp (.d8 0xFE))))),
    ([0x88, 0xE0], .mov (.rmReg8 (.reg .al) .ah)),
    ([0x8B, 0x80, 0x00, 0x10], .mov (.regRm16 .ax (.mem (.indexed .bxSi (.d16 0x1000))))),
    ([0xA1, 0x00, 0x02], .mov (.axMem 0x0200)),
    ([0xA2, 0x00, 0x02], .mov (.memAl 0x0200)),
    ([0xB0, 0x7F], .mov (.regImm8 .al 0x7F)),
    ([0xB8, 0x34, 0x12], .mov (.regImm16 .ax 0x1234)),
    ([0xC7, 0x46, 0xFE, 0x78, 0x56], .mov (.rmImm16 (.mem (.indexed .bp (.d8 0xFE))) 0x5678))
    ] : List (Bytes × Instr)).all (fun p => reads p.1 p.2) = true := by
  decide

theorem test_decode_transfer2 :
    ([
    ([0x8C, 0xC0], .movFromSeg (.reg .ax) .es),
    ([0x8E, 0xD8], .movToSeg .ds (.reg .ax)),
    ([0x5B], .popReg .bx),
    ([0x8F, 0x07], .popRm (.mem (.indexed .bx .none))),
    ([0x07], .popSeg .es),
    ([0x17], .popSeg .ss),
    ([0x1F], .popSeg .ds),
    ([0x61], .popa),
    ([0x9D], .popf),
    ([0x54], .pushReg .sp),
    ([0xFF, 0x37], .pushRm (.mem (.indexed .bx .none))),
    ([0x06], .pushSeg .es),
    ([0x0E], .pushSeg .cs),
    ([0x16], .pushSeg .ss),
    ([0x1E], .pushSeg .ds),
    ([0x68, 0x34, 0x12], .pushImm16 0x1234),
    ([0x6A, 0xFF], .pushImm8 0xFF),
    ([0x60], .pusha),
    ([0x9C], .pushf),
    ([0x86, 0x07], .xchg (.rmReg8 (.mem (.indexed .bx .none)) .al)),
    ([0x87, 0xDE], .xchg (.rmReg16 (.reg .si) .bx)),
    ([0x93], .xchgAx .bx),
    ([0xD7], .xlat)
    ] : List (Bytes × Instr)).all (fun p => reads p.1 p.2) = true := by
  decide

/-- Why bytes are refused. -/
def refuses (bytes : Bytes) : Option DecodeError :=
  match decode bytes with
  | .ok _ => none
  | .error e => some e

/-- 95_test_vectors.md 2.1, 30_encoding.md R91, R99. -/
theorem test_decode_undefined :
    [[0x0F], [0x63], [0xD6], [0xF1], [0xFE, 0xD0], [0x8D, 0xC0], [0x8E, 0xC8], [0x8C, 0xE0], [0xD4, 0x10], [0xC7, 0x06]].map
        refuses =
      [some (.undefinedOpcode 0x0F), some (.undefinedOpcode 0x63), some (.undefinedOpcode 0xD6),
        some (.undefinedOpcode 0xF1), some (.undefinedGroup 0xFE 2), some (.registerOperand 0x8D), some .codeSegmentLoad,
        some (.segmentNumber 0x8C 4), some (.decimalBase 0xD4 0x10), some .truncated] := by
  decide

/-- Numbers of opcode_table.json: the opcode byte is the high byte of the first 16 bits, and a lone byte stands alone. -/
theorem test_decodeTableWord :
    (decodeTableWord 8 0x37, decodeTableWord 16 0x01C8, decodeTableWord 16 0xD50A, decodeTableWord 16 0xD510) =
      (some .aaa, some (.add (.rmReg16 (.reg .ax) .cx)), some .aad, none) := by
  decide

/-! ### Memory -/

/-- 20_memory.md R52, and the canonical form: writing 00H takes the entry out again. -/
theorem test_memory_canonical :
    ((Memory.write16 [] 0x1234 0x0010 0xBEEF), Memory.write (Memory.write [] 5 1) 5 0, Memory.wf [(5, 1), (5, 2)],
        Memory.wf [(5, 0)]) = ([(0x12350, 0xEF), (0x12351, 0xBE)], [], false, false) := by
  decide

/-- 20_memory.md R51: the sum wraps at 2^20. -/
theorem test_phys_wraps : phys 0xFFFF 0x0010 = 0 := by decide

/-! ### One step of each instruction -/

/-- A state to run on: CS = 0100H, DS = 2000H, SS = 3000H, ES = 4000H, `this_ip` = 0100H, `next_ip` = 0102H. -/
def start (regs : Regs) (flags : Flags) (cells : List (Nat × Byte)) : State :=
  { State.reset with
    regs := regs, flags := flags, segs := { cs := 0x0100, ds := 0x2000, ss := 0x3000, es := 0x4000 }
    thisIp := 0x0100, ip := 0x0102
    mem := cells.foldl (fun m c => Memory.write m c.1 c.2) [] }

/-- A view of the state an instruction leaves. -/
def after {α : Type} (i : Instr) (s : State) (view : State → α) : Option α :=
  match exec i s with
  | .next t => some (view t)
  | .fault _ => none
  | .refused _ => none

/-- 95_test_vectors.md S17. -/
theorem test_aaa : after (.aaa) (start { ax := 0x000C } {} []) (fun t => (t.regs.ax, t.flags.CF)) = some (0x0102, true) := by
  decide

/-- 40_arithmetic.md R124: FFH - 6 = F9H, low digit 9. -/
theorem test_aas : after (.aas) (start { ax := 0x01FF } { AF := true } []) (fun t => (t.reg8 .al, t.flags.AF)) = some (9, true) := by
  decide

/-- S15. -/
theorem test_aad : after (.aad) (start { ax := 0x0205 } {} []) (fun t => t.regs.ax) = some 0x0019 := by
  decide

/-- S16. -/
theorem test_aam : after (.aam) (start { ax := 0x003F } {} []) (fun t => t.regs.ax) = some 0x0603 := by
  decide

/-- 40_arithmetic.md R125. -/
theorem test_adc_carry_in : after (.adc (.ax 0x0000)) (start { ax := 0x7FFF } { CF := true } []) (fun t => (t.regs.ax, t.flags.OF)) = some (0x8000, true) := by
  decide

/-- 40_arithmetic.md R126: AH is left alone. -/
theorem test_add_wraps : after (.add (.rmReg8 (.reg .al) .bl)) (start { ax := 0x12FF, bx := 1 } {} []) (fun t => (t.regs.ax, t.flags.CF, t.flags.ZF)) = some (0x1200, true, true) := by
  decide

/-- 40_arithmetic.md R126. -/
theorem test_add_memory : after (.add (.rmImm16 (.mem (.direct 0x1000)) 0x1234)) (start {} {} [(0x21000, 0xFF), (0x21001, 0xFF)]) (fun t => t.read16 .ds 0x1000) = some 0x1233 := by
  decide

/-- S6. -/
theorem test_cbw : after (.cbw) (start { ax := 0x0080 } {} []) (fun t => t.regs.ax) = some 0xFF80 := by
  decide

/-- S3. -/
theorem test_cmp_keeps_operand : after (.cmp (.rmReg8 (.reg .al) .bl)) (start { ax := 0x0005, bx := 0x00FE } {} []) (fun t => (t.regs.ax, t.flags.CF, t.flags.ZF)) = some (0x0005, true, false) := by
  decide

/-- S7. -/
theorem test_cwd : after (.cwd) (start { ax := 0x8000 } {} []) (fun t => t.regs.dx) = some 0xFFFF := by
  decide

/-- 40_arithmetic.md R130: 9AH is adjusted twice. -/
theorem test_daa : after (.daa) (start { ax := 0x009A } {} []) (fun t => (t.reg8 .al, t.flags.CF)) = some (0x00, true) := by
  decide

/-- 40_arithmetic.md R131: 1EH - 6. -/
theorem test_das : after (.das) (start { ax := 0x001E } {} []) (fun t => (t.reg8 .al, t.flags.CF)) = some (0x18, false) := by
  decide

/-- 40_arithmetic.md R132. -/
theorem test_dec_keeps_carry : after (.dec (.reg16 .ax)) (start {} { CF := true } []) (fun t => (t.regs.ax, t.flags.CF, t.flags.AF)) = some (0xFFFF, true, true) := by
  decide

/-- S10: AL = FFH, AH = FEH. -/
theorem test_div_largest : after (.div (.rm8 (.reg .bl))) (start { ax := 0xFEFF, bx := 0x00FF } {} []) (fun t => t.regs.ax) = some 0xFEFF := by
  decide

/-- 40_arithmetic.md R133: 12345678H divided by 5343H is 14328, the remainder 18576. -/
theorem test_div_word : after (.div (.rm16 (.reg .bx))) (start { ax := 0x5678, dx := 0x1234, bx := 0x5343 } {} []) (fun t => (t.regs.ax, t.regs.dx)) = some (0x37F8, 0x4890) := by
  decide

/-- S12: -5 / 2 is -2, the remainder -1. -/
theorem test_idiv_truncates : after (.idiv (.rm8 (.reg .bl))) (start { ax := 0xFFFB, bx := 0x0002 } {} []) (fun t => t.regs.ax) = some 0xFFFE := by
  decide

/-- S14. -/
theorem test_imul_fits : after (.imul (.rm8 (.reg .bl))) (start { ax := 0x00FF, bx := 0x0002 } {} []) (fun t => (t.regs.ax, t.flags.CF)) = some (0xFFFE, false) := by
  decide

/-- S14. -/
theorem test_imul_overflows : after (.imul (.rm8 (.reg .bl))) (start { ax := 0x0040, bx := 0x0002 } {} []) (fun t => (t.regs.ax, t.flags.OF)) = some (0x0080, true) := by
  decide

/-- 40_arithmetic.md R136: 3 x -2. -/
theorem test_imulImm16 : after (.imulImm16 .ax (.reg .bx) 0xFFFE) (start { bx := 3 } {} []) (fun t => (t.regs.ax, t.flags.CF)) = some (0xFFFA, false) := by
  decide

/-- 40_arithmetic.md R136, 30_encoding.md R93. -/
theorem test_imulImm8_extends : after (.imulImm8 .ax (.reg .bx) 0xFE) (start { bx := 3 } {} []) (fun t => (t.regs.ax, t.flags.CF)) = some (0xFFFA, false) := by
  decide

/-- 40_arithmetic.md R137. -/
theorem test_inc_keeps_carry : after (.inc (.rm8 (.reg .al))) (start { ax := 0x007F } { CF := true } []) (fun t => (t.regs.ax, t.flags.OF, t.flags.CF)) = some (0x0080, true, true) := by
  decide

/-- S13. -/
theorem test_mul : after (.mul (.rm8 (.reg .bl))) (start { ax := 0x0010, bx := 0x0010 } {} []) (fun t => (t.regs.ax, t.flags.CF)) = some (0x0100, true) := by
  decide

/-- 40_arithmetic.md R138. -/
theorem test_mul_word : after (.mul (.rm16 (.reg .bx))) (start { ax := 0xFFFF, bx := 0xFFFF } {} []) (fun t => (t.regs.dx, t.regs.ax)) = some (0xFFFE, 0x0001) := by
  decide

/-- S8. -/
theorem test_neg_minimum : after (.neg (.rm8 (.reg .al))) (start { ax := 0x0080 } {} []) (fun t => (t.regs.ax, t.flags.OF, t.flags.CF)) = some (0x0080, true, true) := by
  decide

/-- 40_arithmetic.md R140: 0 - FFH - 1. -/
theorem test_sbb_borrow_in : after (.sbb (.al 0xFF)) (start {} { CF := true } []) (fun t => (t.reg8 .al, t.flags.CF)) = some (0x00, true) := by
  decide

/-- 40_arithmetic.md R141. -/
theorem test_sub_overflow : after (.sub (.al 0x01)) (start { ax := 0x0080 } {} []) (fun t => (t.reg8 .al, t.flags.OF, t.flags.CF)) = some (0x7F, true, false) := by
  decide

/-- 41_logic_shift.md R161. -/
theorem test_and : after (.and (.al 0x0F)) (start { ax := 0x00FC } { CF := true } []) (fun t => (t.reg8 .al, t.flags.CF, t.flags.PF)) = some (0x0C, false, true) := by
  decide

/-- 41_logic_shift.md R162. -/
theorem test_not : after (.not (.rm8 (.reg .ah))) (start { ax := 0x0034 } {} []) (fun t => (t.regs.ax, t.flags.ZF)) = some (0xFF34, false) := by
  decide

/-- 41_logic_shift.md R163. -/
theorem test_or : after (.or (.rmReg8 (.reg .al) .ah)) (start { ax := 0x8101 } {} []) (fun t => (t.regs.ax, t.flags.SF)) = some (0x8181, true) := by
  decide

/-- S4. -/
theorem test_test_bit : after (.test (.al 0x81)) (start { ax := 0x0080 } {} []) (fun t => (t.reg8 .al, t.flags.ZF)) = some (0x80, false) := by
  decide

/-- 41_logic_shift.md R165. -/
theorem test_xor_self : after (.xor (.rmReg16 (.reg .ax) .ax)) (start { ax := 0x1234 } {} []) (fun t => (t.regs.ax, t.flags.ZF)) = some (0, true) := by
  decide

/-- 41_logic_shift.md R167: the carry comes in at bit 0. -/
theorem test_rcl : after (.rcl (.rm8 (.reg .al) .one)) (start { ax := 0x0081 } { CF := true } []) (fun t => (t.reg8 .al, t.flags.CF)) = some (0x03, true) := by
  decide

/-- 41_logic_shift.md R168: the carry comes in at bit 7. -/
theorem test_rcr : after (.rcr (.rm8 (.reg .al) .one)) (start { ax := 0x0002 } { CF := true } []) (fun t => (t.reg8 .al, t.flags.CF)) = some (0x81, false) := by
  decide

/-- 41_logic_shift.md R169: nine turns are one. -/
theorem test_rol_imm : after (.rol (.rm8 (.reg .al) (.imm 9))) (start { ax := 0x0081 } {} []) (fun t => (t.reg8 .al, t.flags.CF)) = some (0x03, true) := by
  decide

/-- 41_logic_shift.md R170. -/
theorem test_ror_cl : after (.ror (.rm16 (.reg .ax) .cl)) (start { ax := 0x0001, cx := 0xFF02 } {} []) (fun t => (t.regs.ax, t.flags.CF)) = some (0x4000, false) := by
  decide

/-- 41_logic_shift.md R171. -/
theorem test_shl_one : after (.shl (.rm8 (.reg .al) .one)) (start { ax := 0x0040 } {} []) (fun t => (t.reg8 .al, t.flags.CF, t.flags.OF)) = some (0x80, false, true) := by
  decide

/-- S1. -/
theorem test_sar_one : after (.sar (.rm8 (.reg .al) .one)) (start { ax := 0x00FB } {} []) (fun t => (t.reg8 .al, t.flags.CF, t.flags.OF)) = some (0xFD, true, false) := by
  decide

/-- 41_logic_shift.md R173. -/
theorem test_shr_one : after (.shr (.rm16 (.reg .ax) .one)) (start { ax := 0x8001 } {} []) (fun t => (t.regs.ax, t.flags.CF, t.flags.OF)) = some (0x4000, true, true) := by
  decide

/-- S28. -/
theorem test_bound_outside : after (.bound .cx (.direct 0x1000)) (start { cx := 0xFFFF, sp := 0x0100 } { IF := true } [(0x14, 0x00), (0x15, 0x05), (0x16, 0x40), (0x17, 0x00), (0x21002, 9)]) (fun t => (t.regs.sp, t.flags.IF)) = some (0x00FA, false) := by
  decide

/-- 42_control_transfer.md R191. -/
theorem test_bound_inside : after (.bound .cx (.direct 0x1000)) (start { cx := 9, sp := 0x0100 } {} [(0x21002, 9)]) (fun t => (t.ip, t.regs.sp)) = some (0x0102, 0x0100) := by
  decide

/-- 42_control_transfer.md R192. -/
theorem test_callNear : after (.callNear 0x0004) (start { sp := 0x0100 } {} []) (fun t => (t.ip, t.regs.sp, t.read16 .ss 0x00FE)) = some (0x0106, 0x00FE, 0x0102) := by
  decide

/-- 42_control_transfer.md R193, log 36: the operand is read before the push. -/
theorem test_callNearInd : after (.callNearInd (.reg .sp)) (start { sp := 0x0100 } {} []) (fun t => (t.ip, t.regs.sp)) = some (0x0100, 0x00FE) := by
  decide

/-- 42_control_transfer.md R194. -/
theorem test_callFar : after (.callFar 0x0200 0x3000) (start { sp := 0x0100 } {} []) (fun t => (t.segs.cs, t.ip, t.read16 .ss 0x00FE, t.read16 .ss 0x00FC)) = some (0x3000, 0x0200, 0x0100, 0x0102) := by
  decide

/-- 42_control_transfer.md R195. -/
theorem test_callFarInd : after (.callFarInd (.direct 0x0010)) (start { sp := 0x0100 } {} [(0x20010, 0x34), (0x20011, 0x12), (0x20012, 0x40)]) (fun t => (t.segs.cs, t.ip)) = some (0x0040, 0x1234) := by
  decide

/-- 42_control_transfer.md R196. -/
theorem test_int : after (.int 0x21) (start { sp := 0x0100 } { IF := true, TF := true, OF := true } [(0x85, 0x05), (0x86, 0x40)]) (fun t => (t.flags, t.regs.sp)) = some ({ OF := true }, 0x00FA) := by
  decide

/-- S21. -/
theorem test_int3 : after (.int3) (start { sp := 0x0100 } { IF := true, OF := true } [(0x0D, 0x06)]) (fun t => (t.flags, t.regs.sp)) = some ({ OF := true }, 0x00FA) := by
  decide

/-- S22. -/
theorem test_into_taken : after (.into) (start { sp := 0x0100 } { OF := true } [(0x11, 0x07)]) (fun t => (t.flags, t.regs.sp)) = some ({ OF := true }, 0x00FA) := by
  decide

/-- S22. -/
theorem test_into_passed : after (.into) (start { sp := 0x0100 } {} []) (fun t => (t.ip, t.regs.sp)) = some (0x0102, 0x0100) := by
  decide

/-- 42_control_transfer.md R199. -/
theorem test_iret : after (.iret) (start { sp := 0x0100 } {} [(0x30100, 0x02), (0x30101, 0x04), (0x30102, 0x40), (0x30104, 0x01), (0x30105, 0x08)]) (fun t => (t.ip, t.segs.cs, t.flags.OF, t.flags.CF, t.regs.sp)) = some (0x0402, 0x0040, true, true, 0x0106) := by
  decide

/-- 95_test_vectors.md Part 1, the table of jumps. -/
theorem test_ja_taken : after (.ja 0xFE) (start {} {} []) (fun t => t.ip) = some 0x0100 := by
  decide

/-- 95_test_vectors.md Part 1, the table of jumps. -/
theorem test_ja_passed : after (.ja 0xFE) (start {} { ZF := true } []) (fun t => t.ip) = some 0x0102 := by
  decide

/-- 95_test_vectors.md Part 1, the table of jumps. -/
theorem test_jae_taken : after (.jae 0xFE) (start {} {} []) (fun t => t.ip) = some 0x0100 := by
  decide

/-- 95_test_vectors.md Part 1, the table of jumps. -/
theorem test_jae_passed : after (.jae 0xFE) (start {} { CF := true } []) (fun t => t.ip) = some 0x0102 := by
  decide

/-- 95_test_vectors.md Part 1, the table of jumps. -/
theorem test_jb_taken : after (.jb 0xFE) (start {} { CF := true } []) (fun t => t.ip) = some 0x0100 := by
  decide

/-- 95_test_vectors.md Part 1, the table of jumps. -/
theorem test_jb_passed : after (.jb 0xFE) (start {} {} []) (fun t => t.ip) = some 0x0102 := by
  decide

/-- 95_test_vectors.md Part 1, the table of jumps. -/
theorem test_jbe_taken : after (.jbe 0xFE) (start {} { ZF := true } []) (fun t => t.ip) = some 0x0100 := by
  decide

/-- 95_test_vectors.md Part 1, the table of jumps. -/
theorem test_jbe_passed : after (.jbe 0xFE) (start {} {} []) (fun t => t.ip) = some 0x0102 := by
  decide

/-- 95_test_vectors.md Part 1, the table of jumps. -/
theorem test_je_taken : after (.je 0xFE) (start {} { ZF := true } []) (fun t => t.ip) = some 0x0100 := by
  decide

/-- 95_test_vectors.md Part 1, the table of jumps. -/
theorem test_je_passed : after (.je 0xFE) (start {} {} []) (fun t => t.ip) = some 0x0102 := by
  decide

/-- 95_test_vectors.md Part 1, the table of jumps. -/
theorem test_jg_taken : after (.jg 0xFE) (start {} { SF := true, OF := true } []) (fun t => t.ip) = some 0x0100 := by
  decide

/-- 95_test_vectors.md Part 1, the table of jumps. -/
theorem test_jg_passed : after (.jg 0xFE) (start {} { SF := true, OF := true, ZF := true } []) (fun t => t.ip) = some 0x0102 := by
  decide

/-- 95_test_vectors.md Part 1, the table of jumps. -/
theorem test_jge_taken : after (.jge 0xFE) (start {} { SF := true, OF := true } []) (fun t => t.ip) = some 0x0100 := by
  decide

/-- 95_test_vectors.md Part 1, the table of jumps. -/
theorem test_jge_passed : after (.jge 0xFE) (start {} { OF := true } []) (fun t => t.ip) = some 0x0102 := by
  decide

/-- 95_test_vectors.md Part 1, the table of jumps. -/
theorem test_jl_taken : after (.jl 0xFE) (start {} { OF := true } []) (fun t => t.ip) = some 0x0100 := by
  decide

/-- 95_test_vectors.md Part 1, the table of jumps. -/
theorem test_jl_passed : after (.jl 0xFE) (start {} { SF := true, OF := true } []) (fun t => t.ip) = some 0x0102 := by
  decide

/-- 95_test_vectors.md Part 1, the table of jumps. -/
theorem test_jle_taken : after (.jle 0xFE) (start {} { ZF := true } []) (fun t => t.ip) = some 0x0100 := by
  decide

/-- 95_test_vectors.md Part 1, the table of jumps. -/
theorem test_jle_passed : after (.jle 0xFE) (start {} {} []) (fun t => t.ip) = some 0x0102 := by
  decide

/-- 95_test_vectors.md Part 1, the table of jumps. -/
theorem test_jne_taken : after (.jne 0xFE) (start {} {} []) (fun t => t.ip) = some 0x0100 := by
  decide

/-- 95_test_vectors.md Part 1, the table of jumps. -/
theorem test_jne_passed : after (.jne 0xFE) (start {} { ZF := true } []) (fun t => t.ip) = some 0x0102 := by
  decide

/-- 95_test_vectors.md Part 1, the table of jumps. -/
theorem test_jno_taken : after (.jno 0xFE) (start {} {} []) (fun t => t.ip) = some 0x0100 := by
  decide

/-- 95_test_vectors.md Part 1, the table of jumps. -/
theorem test_jno_passed : after (.jno 0xFE) (start {} { OF := true } []) (fun t => t.ip) = some 0x0102 := by
  decide

/-- 95_test_vectors.md Part 1, the table of jumps. -/
theorem test_jns_taken : after (.jns 0xFE) (start {} {} []) (fun t => t.ip) = some 0x0100 := by
  decide

/-- 95_test_vectors.md Part 1, the table of jumps. -/
theorem test_jns_passed : after (.jns 0xFE) (start {} { SF := true } []) (fun t => t.ip) = some 0x0102 := by
  decide

/-- 95_test_vectors.md Part 1, the table of jumps. -/
theorem test_jnp_taken : after (.jnp 0xFE) (start {} {} []) (fun t => t.ip) = some 0x0100 := by
  decide

/-- 95_test_vectors.md Part 1, the table of jumps. -/
theorem test_jnp_passed : after (.jnp 0xFE) (start {} { PF := true } []) (fun t => t.ip) = some 0x0102 := by
  decide

/-- 95_test_vectors.md Part 1, the table of jumps. -/
theorem test_jo_taken : after (.jo 0xFE) (start {} { OF := true } []) (fun t => t.ip) = some 0x0100 := by
  decide

/-- 95_test_vectors.md Part 1, the table of jumps. -/
theorem test_jo_passed : after (.jo 0xFE) (start {} {} []) (fun t => t.ip) = some 0x0102 := by
  decide

/-- 95_test_vectors.md Part 1, the table of jumps. -/
theorem test_jp_taken : after (.jp 0xFE) (start {} { PF := true } []) (fun t => t.ip) = some 0x0100 := by
  decide

/-- 95_test_vectors.md Part 1, the table of jumps. -/
theorem test_jp_passed : after (.jp 0xFE) (start {} {} []) (fun t => t.ip) = some 0x0102 := by
  decide

/-- 95_test_vectors.md Part 1, the table of jumps. -/
theorem test_js_taken : after (.js 0xFE) (start {} { SF := true } []) (fun t => t.ip) = some 0x0100 := by
  decide

/-- 95_test_vectors.md Part 1, the table of jumps. -/
theorem test_js_passed : after (.js 0xFE) (start {} {} []) (fun t => t.ip) = some 0x0102 := by
  decide

/-- S5: 0102H + 5. -/
theorem test_jcxz : after (.jcxz 0x05) (start {} {} []) (fun t => t.ip) = some 0x0107 := by
  decide

/-- 42_control_transfer.md R212. -/
theorem test_jmpShort : after (.jmpShort 0xFE) (start {} {} []) (fun t => t.ip) = some 0x0100 := by
  decide

/-- 42_control_transfer.md R213. -/
theorem test_jmpNear : after (.jmpNear 0xFFFD) (start {} {} []) (fun t => t.ip) = some 0x00FF := by
  decide

/-- 42_control_transfer.md R214. -/
theorem test_jmpNearInd : after (.jmpNearInd (.mem (.indexed .bx .none))) (start { bx := 0x0010 } {} [(0x20010, 0x34), (0x20011, 0x12)]) (fun t => t.ip) = some 0x1234 := by
  decide

/-- 42_control_transfer.md R215. -/
theorem test_jmpFar : after (.jmpFar 0x0200 0x3000) (start {} {} []) (fun t => (t.segs.cs, t.ip)) = some (0x3000, 0x0200) := by
  decide

/-- 42_control_transfer.md R216. -/
theorem test_jmpFarInd : after (.jmpFarInd (.direct 0x0010)) (start {} {} [(0x20010, 0x34), (0x20011, 0x12), (0x20012, 0x40)]) (fun t => (t.segs.cs, t.ip)) = some (0x0040, 0x1234) := by
  decide

/-- S24. -/
theorem test_loop_wraps : after (.loop 0xFC) (start {} {} []) (fun t => (t.regs.cx, t.ip)) = some (0xFFFF, 0x00FE) := by
  decide

/-- S24. -/
theorem test_loop_ends : after (.loop 0xFC) (start { cx := 1 } {} []) (fun t => (t.regs.cx, t.ip)) = some (0x0000, 0x0102) := by
  decide

/-- S25. -/
theorem test_loope : after (.loope 0xFC) (start { cx := 2 } { ZF := true } []) (fun t => (t.regs.cx, t.ip)) = some (0x0001, 0x00FE) := by
  decide

/-- S25. -/
theorem test_loopne : after (.loopne 0xFC) (start { cx := 2 } { ZF := true } []) (fun t => (t.regs.cx, t.ip)) = some (0x0001, 0x0102) := by
  decide

/-- 42_control_transfer.md R228. -/
theorem test_ret : after (.ret) (start { sp := 0x0100 } {} [(0x30100, 0x34), (0x30101, 0x12), (0x30102, 0x40)]) (fun t => (t.ip, t.regs.sp)) = some (0x1234, 0x0102) := by
  decide

/-- 42_control_transfer.md R229. -/
theorem test_retPop : after (.retPop 4) (start { sp := 0x0100 } {} [(0x30100, 0x34), (0x30101, 0x12), (0x30102, 0x40)]) (fun t => (t.ip, t.regs.sp)) = some (0x1234, 0x0106) := by
  decide

/-- 42_control_transfer.md R230. -/
theorem test_retFar : after (.retFar) (start { sp := 0x0100 } {} [(0x30100, 0x34), (0x30101, 0x12), (0x30102, 0x40)]) (fun t => (t.ip, t.segs.cs, t.regs.sp)) = some (0x1234, 0x0040, 0x0104) := by
  decide

/-- 42_control_transfer.md R231. -/
theorem test_retFarPop : after (.retFarPop 2) (start { sp := 0x0100 } {} [(0x30100, 0x34), (0x30101, 0x12), (0x30102, 0x40)]) (fun t => (t.ip, t.segs.cs, t.regs.sp)) = some (0x1234, 0x0040, 0x0106) := by
  decide

/-- 95_test_vectors.md 2.9. -/
theorem test_clc : after (.clc) (start {} { CF := true, OF := true } []) (fun t => t.flags) = some ({ OF := true }) := by
  decide

/-- 95_test_vectors.md 2.9. -/
theorem test_cld : after (.cld) (start {} { DF := true, OF := true } []) (fun t => t.flags) = some ({ OF := true }) := by
  decide

/-- 95_test_vectors.md 2.9. -/
theorem test_cli : after (.cli) (start {} { IF := true, OF := true } []) (fun t => t.flags) = some ({ OF := true }) := by
  decide

/-- 95_test_vectors.md 2.9. -/
theorem test_cmc : after (.cmc) (start {} { OF := true } []) (fun t => t.flags) = some ({ CF := true, OF := true }) := by
  decide

/-- 95_test_vectors.md 2.9. -/
theorem test_stc : after (.stc) (start {} { OF := true } []) (fun t => t.flags) = some ({ CF := true, OF := true }) := by
  decide

/-- 95_test_vectors.md 2.9. -/
theorem test_std : after (.std) (start {} { OF := true } []) (fun t => t.flags) = some ({ DF := true, OF := true }) := by
  decide

/-- 95_test_vectors.md 2.9. -/
theorem test_sti : after (.sti) (start {} {} []) (fun t => (t.flags.IF, t.stiShadow)) = some (true, true) := by
  decide

/-- 95_test_vectors.md 2.9. -/
theorem test_sti_again : after (.sti) (start {} { IF := true } []) (fun t => (t.flags.IF, t.stiShadow)) = some (true, false) := by
  decide

/-- S18. -/
theorem test_sahf : after (.sahf) (start { ax := 0xD500 } {} []) (fun t => t.flags) = some ({ SF := true, ZF := true, AF := true, PF := true, CF := true }) := by
  decide

/-- 95_test_vectors.md 2.9. -/
theorem test_nop : after (.nop) (start {} {} []) (fun t => (t.ip, t.flags)) = some (0x0102, {}) := by
  decide

/-- 43_flag_processor_control.md R260. -/
theorem test_lock : after (.lock) (start {} {} []) (fun t => t.pre) = some ({ active := true, lock := true }) := by
  decide

/-- 43_flag_processor_control.md R261. -/
theorem test_seg : after (.seg .es) (start {} {} []) (fun t => t.pre) = some ({ active := true, seg := some .es }) := by
  decide

/-- 95_test_vectors.md 2.9. -/
theorem test_hlt : after (.hlt) (start {} {} []) (fun t => (t.halted, t.ip)) = some (true, 0x0102) := by
  decide

/-- 95_test_vectors.md 2.9. -/
theorem test_wait : after (.wait) (start {} {} []) (fun t => (t.waiting, t.ip)) = some (false, 0x0102) := by
  decide

/-- 95_test_vectors.md 2.9. -/
theorem test_wait_enters : after (.wait) ({ start {} {} [] with lines := { test := false } }) (fun t => t.waiting) = some true := by
  decide

/-- 95_test_vectors.md 2.10. -/
theorem test_cmps : after (.cmps .word) (start { si := 0x0200, di := 0x0300 } {} [(0x20200, 0x34), (0x20201, 0x12), (0x40300, 0x35), (0x40301, 0x12)]) (fun t => (t.flags.CF, t.flags.ZF, t.regs.si, t.regs.di)) = some (true, false, 0x0202, 0x0302) := by
  decide

/-- 95_test_vectors.md 2.10. -/
theorem test_ins : after (.ins .byte) (start { dx := 0x0300, di := 0x0010 } {} []) (fun t => (t.regs.di, t.bus.length)) = some (0x0011, 1) := by
  decide

/-- 95_test_vectors.md 2.10. -/
theorem test_lods : after (.lods .byte) (start { si := 0x0100 } { DF := true } [(0x20100, 0x7F)]) (fun t => (t.reg8 .al, t.regs.si)) = some (0x7F, 0x00FF) := by
  decide

/-- 95_test_vectors.md 2.10. -/
theorem test_movs : after (.movs .word) (start { si := 0x0200, di := 0x0300 } { DF := true } [(0x20200, 0x34), (0x20201, 0x12)]) (fun t => (t.read16 .es 0x0300, t.regs.si, t.regs.di)) = some (0x1234, 0x01FE, 0x02FE) := by
  decide

/-- 95_test_vectors.md 2.10: the source in CS. -/
theorem test_movs_override : after (.movs .byte) ({ start { si := 0x0200, di := 0x0300 } {} [(0x1200, 0x11), (0x20200, 0x22)] with pre := { active := true, seg := some .cs } }) (fun t => t.read8 .es 0x0300) = some 0x11 := by
  decide

/-- 95_test_vectors.md 2.10. -/
theorem test_outs : after (.outs .word) (start { dx := 0x0080, si := 0x0200 } {} [(0x20200, 0xEF), (0x20201, 0xBE)]) (fun t => (t.bus, t.regs.si)) = some ([.portWrite 0x0080 .word 0xBEEF], 0x0202) := by
  decide

/-- 95_test_vectors.md 2.10. -/
theorem test_scas : after (.scas .byte) (start { di := 0x0300 } {} [(0x40300, 0x01)]) (fun t => (t.flags.CF, t.flags.SF, t.flags.ZF, t.regs.di)) = some (true, true, false, 0x0301) := by
  decide

/-- 95_test_vectors.md 2.10. -/
theorem test_stos_wraps : after (.stos .byte) (start { ax := 0x0055, di := 0xFFFF } {} []) (fun t => (t.read8 .es 0xFFFF, t.regs.di)) = some (0x55, 0x0000) := by
  decide

/-- 44_string.md R290. -/
theorem test_rep : after (.rep) (start {} {} []) (fun t => t.pre.rep) = some (some true) := by
  decide

/-- 44_string.md R290. -/
theorem test_repne : after (.repne) (start {} {} []) (fun t => t.pre.rep) = some (some false) := by
  decide

/-- 95_test_vectors.md 2.11. -/
theorem test_enter_level2 : after (.enter 0 2) (start { sp := 0x1000, bp := 0x2000 } {} [(0x31FFF, 0x30)]) (fun t => (t.regs.bp, t.regs.sp, t.read16 .ss 0x0FFC, t.read16 .ss 0x0FFA)) = some (0x0FFE, 0x0FFA, 0x3000, 0x0FFE) := by
  decide

/-- 95_test_vectors.md 2.11. -/
theorem test_enter_level0 : after (.enter 4 0) (start { sp := 0x1000, bp := 0x2000 } {} []) (fun t => (t.regs.bp, t.regs.sp, t.read16 .ss 0x0FFE)) = some (0x0FFE, 0x0FFA, 0x2000) := by
  decide

/-- 95_test_vectors.md 2.11. -/
theorem test_leave : after (.leave) (start { bp := 0x0FFE } {} [(0x30FFF, 0x20)]) (fun t => (t.regs.bp, t.regs.sp)) = some (0x2000, 0x1000) := by
  decide

/-- 95_test_vectors.md 2.11. -/
theorem test_inPort : after (.inPort .word .dx) (start { dx := 0x0300 } {} []) (fun t => t.bus.length) = some 1 := by
  decide

/-- 95_test_vectors.md 2.11. -/
theorem test_outPort : after (.outPort .byte (.imm 0x80)) (start { ax := 0x1255 } {} []) (fun t => t.bus) = some ([.portWrite 0x0080 .byte 0x0055]) := by
  decide

/-- 95_test_vectors.md 2.11. -/
theorem test_lds : after (.lds .si (.direct 0x0100)) (start {} {} [(0x20100, 0x34), (0x20101, 0x12), (0x20103, 0x20)]) (fun t => (t.regs.si, t.segs.ds)) = some (0x1234, 0x2000) := by
  decide

/-- 20_memory.md R55: FF00H + 0200H - 1 modulo 2^16. -/
theorem test_lea : after (.lea .ax (.indexed .bxSi (.d8 0xFF))) (start { bx := 0xFF00, si := 0x0200 } {} []) (fun t => t.regs.ax) = some 0x00FF := by
  decide

/-- 95_test_vectors.md 2.11. -/
theorem test_les : after (.les .di (.indexed .bx .none)) (start { bx := 0x0100 } {} [(0x20100, 0x34), (0x20101, 0x12), (0x20103, 0x20)]) (fun t => (t.regs.di, t.segs.es)) = some (0x1234, 0x2000) := by
  decide

/-- 95_test_vectors.md 2.11. -/
theorem test_mov_high_byte : after (.mov (.rmReg8 (.reg .al) .ah)) (start { ax := 0x1234 } {} []) (fun t => t.regs.ax) = some 0x1212 := by
  decide

/-- 95_test_vectors.md P5. -/
theorem test_mov_bp_uses_ss : after (.mov (.rmImm16 (.mem (.indexed .bp (.d8 0xFE))) 0x5678)) (start { bp := 0x0100 } {} []) (fun t => t.read16 .ss 0x00FE) = some 0x5678 := by
  decide

/-- 95_test_vectors.md 2.11. -/
theorem test_movFromSeg : after (.movFromSeg (.reg .ax) .es) (start {} {} []) (fun t => t.regs.ax) = some 0x4000 := by
  decide

/-- 95_test_vectors.md 2.11. -/
theorem test_movToSeg : after (.movToSeg .ds (.reg .ax)) (start { ax := 0x1234 } {} []) (fun t => (t.segs.ds, t.segInhibit)) = some (0x1234, true) := by
  decide

/-- 95_test_vectors.md 2.11. -/
theorem test_popReg : after (.popReg .bx) (start { sp := 0x0100 } {} [(0x30100, 0x34), (0x30101, 0x12), (0x30102, 0x40)]) (fun t => (t.regs.bx, t.regs.sp)) = some (0x1234, 0x0102) := by
  decide

/-- 95_test_vectors.md 2.11. -/
theorem test_popRm : after (.popRm (.mem (.indexed .bx .none))) (start { sp := 0x0100, bx := 0x0200 } {} [(0x30100, 0x34), (0x30101, 0x12), (0x30102, 0x40)]) (fun t => (t.read16 .ds 0x0200, t.regs.sp)) = some (0x1234, 0x0102) := by
  decide

/-- 95_test_vectors.md 2.11. -/
theorem test_popSeg : after (.popSeg .ss) (start { sp := 0x0100 } {} [(0x30100, 0x34), (0x30101, 0x12), (0x30102, 0x40)]) (fun t => (t.segs.ss, t.regs.sp, t.segInhibit)) = some (0x1234, 0x0102, true) := by
  decide

/-- S20. -/
theorem test_popa_skips_sp : after (.popa) (start { sp := 0x0100 } {} [(0x30100, 0x34), (0x30101, 0x12), (0x30102, 0x40), (0x30106, 0x99)]) (fun t => (t.regs.sp, t.regs.di)) = some (0x0110, 0x1234) := by
  decide

/-- 95_test_vectors.md 2.11. -/
theorem test_popf : after (.popf) (start { sp := 0x0100 } {} [(0x30100, 0xD5), (0x30101, 0x0A)]) (fun t => t.flags) = some ({ CF := true, PF := true, AF := true, ZF := true, SF := true, IF := true, OF := true }) := by
  decide

/-- 95_test_vectors.md 2.11. -/
theorem test_pushReg_sp : after (.pushReg .sp) (start { sp := 0x0100 } {} []) (fun t => (t.regs.sp, t.read16 .ss 0x00FE)) = some (0x00FE, 0x00FE) := by
  decide

/-- 95_test_vectors.md 2.11. -/
theorem test_pushRm : after (.pushRm (.mem (.indexed .bx .none))) (start { sp := 0x0100, bx := 0x0100 } {} [(0x20100, 0x34), (0x20101, 0x12), (0x20103, 0x20)]) (fun t => t.read16 .ss 0x00FE) = some 0x1234 := by
  decide

/-- 95_test_vectors.md 2.11. -/
theorem test_pushSeg : after (.pushSeg .ds) (start { sp := 0x0100 } {} []) (fun t => t.read16 .ss 0x00FE) = some 0x2000 := by
  decide

/-- 95_test_vectors.md 2.11. -/
theorem test_pushImm16 : after (.pushImm16 0x1234) (start { sp := 0x0100 } {} []) (fun t => (t.read8 .ss 0x00FE, t.read8 .ss 0x00FF)) = some (0x34, 0x12) := by
  decide

/-- 95_test_vectors.md 2.11. -/
theorem test_pushImm8 : after (.pushImm8 0xFF) (start { sp := 0x0100 } {} []) (fun t => t.read16 .ss 0x00FE) = some 0xFFFF := by
  decide

/-- S19. -/
theorem test_pusha_order : after (.pusha) (start { ax := 0x1111, sp := 0x0100, di := 0x7777 } {} []) (fun t => (t.regs.sp, t.read16 .ss 0x00FE, t.read16 .ss 0x00F6, t.read16 .ss 0x00F0)) = some (0x00F0, 0x1111, 0x0100, 0x7777) := by
  decide

/-- 95_test_vectors.md 2.11. -/
theorem test_pushf : after (.pushf) (start { sp := 0x0100 } { CF := true, ZF := true, IF := true } []) (fun t => (t.regs.sp, t.flags.ZF)) = some (0x00FE, true) := by
  decide

/-- 95_test_vectors.md 2.11. -/
theorem test_xchg : after (.xchg (.rmReg8 (.mem (.indexed .bx .none)) .al)) (start { ax := 0x0001, bx := 0x0100 } {} [(0x20100, 0x34), (0x20101, 0x12), (0x20103, 0x20)]) (fun t => (t.regs.ax, t.read8 .ds 0x0100)) = some (0x0034, 0x01) := by
  decide

/-- 95_test_vectors.md 2.11. -/
theorem test_xchgAx : after (.xchgAx .bx) (start { ax := 0x1234, bx := 0x5678 } {} []) (fun t => (t.regs.ax, t.regs.bx)) = some (0x5678, 0x1234) := by
  decide

/-- S2. -/
theorem test_xlat : after (.xlat) (start { bx := 0x00FB, ax := 0x0005 } {} [(0x20100, 0x33)]) (fun t => t.reg8 .al) = some 0x33 := by
  decide

theorem lahf_bits (u : Word) : ((0x0044 : Word) ||| (u &&& 0x002A)).lo &&& 0xD5 = 0x44 := by
  apply BitVec.eq_of_getLsbD_eq
  intro i hi
  interval_cases i <;> simp [Word.lo, BitVec.getLsbD_extractLsb', -BitVec.getLsbD_eq_getElem]

/-- 95_test_vectors.md 2.9: bits 5, 3 and 1 are not looked at. -/
theorem test_lahf :
    ∃ t, exec .lahf (start {} { ZF := true, PF := true } []) = .next t ∧ t.reg8 .ah &&& 0xD5 = 0x44 :=
  ⟨_, rfl, (congrArg (· &&& 0xD5) (State.reg8_setReg8_self _ .ah _)).trans (lahf_bits _)⟩

/-- 43_flag_processor_control.md R262, whatever `ESC_ACTION` is. -/
theorem test_esc : ∃ t, exec (.esc 0x1A (.reg .cx)) (start { sp := 0x0100 } {} []) = .next t := ⟨_, rfl⟩

/-- The refusals of R308 and R310 (log 37). -/
theorem test_cs_destination :
    exec (.movToSeg .cs (.reg .ax)) State.reset = .refused .codeSegmentDestination ∧
      exec (.popSeg .cs) State.reset = .refused .codeSegmentDestination :=
  ⟨rfl, rfl⟩

/-! ### Steps -/

/-- After reset the machine runs the instruction stored where it fetches: 01 C8 is ADD AX, CX. -/
theorem test_step_runs_stored_word :
    (match step ((State.reset.setReg .cx 7).withFetchWord 16 0x01C8) with
      | .next t => (t.regs.ax, t.ip, t.segs.cs)
      | _ => (0, 0, 0)) = (7, 2, 0xFFFF) := by
  decide

/-- Bytes at CS:IP of `start`, with IP and `this_ip` at them. -/
def fetching (bytes : Bytes) : State := { start {} {} [] with ip := 0x0100 }.storeCode 0x0100 bytes

/-- 43_flag_processor_control.md R261: the override is in force for the next instruction and then ends. -/
theorem test_prefix_step :
    (match step (fetching [0x26, 0x8A, 0x07]) with
      | .next t => (t.ip, t.thisIp, t.pre.seg)
      | _ => (0, 0, none)) = (0x0101, 0x0100, some .es) := by
  decide

/-- 44_string.md R290: with CX = 2 one repetition of REP STOSB leaves CX = 1 and IP at the first prefix (log 1). -/
theorem test_repetition_step :
    (match step { fetching [0xF3, 0xAA] with
        ip := 0x0101, regs := { cx := 2, di := 0x10, ax := 0x55 }, pre := { active := true, rep := some true } } with
      | .next t => (t.ip, t.regs.cx, t.regs.di, t.read8 .es 0x10, t.pre)
      | _ => (0, 0, 0, 0, {})) = (0x0100, 1, 0x11, 0x55, {}) := by
  decide

/-- 60_exceptions.md R352: with TF set at its start, NOP is followed by the single-step trap. -/
theorem test_single_step :
    (match step { fetching [0x90] with flags := { TF := true }, regs := { sp := 0x0100 } } with
      | .next t => (t.regs.sp, t.flags.TF, t.trapArmed)
      | _ => (0, true, true)) = (0x00FA, false, false) := by
  decide

/-- 43_flag_processor_control.md R263: the halt state is final without a request. -/
theorem test_halt_final : step { start {} {} [] with halted := true } = .next { start {} {} [] with halted := true } := by
  rfl

/-- 44_string.md R291: a request that waits when the first repetition is due is taken before it. -/
theorem test_request_before_first_repetition :
    (match step { fetching [0xF3, 0xAA] with
        ip := 0x0101, regs := { cx := 2, sp := 0x0100 }, pre := { active := true, rep := some true }, lines := { nmi := true } } with
      | .next t => (t.regs.cx, t.regs.di, t.regs.sp, t.lines.nmi, t.pre)
      | _ => (0, 0, 0, true, {})) = (2, 0, 0x00FA, false, {}) := by
  decide

/-- 20_memory.md R72: MOV [DI], AL with DS:DI at its own opcode stores into program text, even the byte that is there. -/
theorem test_store_into_program_text :
    step { fetching [0x88, 0x05] with segs := { cs := 0x0100, ds := 0x0100 }, regs := { di := 0x0100, ax := 0x88 } } =
      .refused .storeIntoProgramText := by
  rfl

/-- 20_memory.md R72: the same store into text that the program declares and that has not been executed. -/
theorem test_store_into_declared_text :
    let s := { fetching [0x88, 0x05] with segs := { cs := 0x0100, ds := 0x0100 }, regs := { di := 0x0180 } };
    step { s with text := [{ base := 0x1100, size := 0x81 }] } = .refused .storeIntoProgramText ∧
      (match step { s with text := [{ base := 0x1100, size := 0x80 }] } with
        | .next t => t.stored
        | _ => []) = [0x1180] := by
  exact ⟨rfl, by decide⟩

/-- 60_exceptions.md R362: the boundary comes after WAIT too: with TF = 1 the trap is taken at once, and the wait ends. -/
theorem test_single_step_of_wait :
    (match step { fetching [0x9B] with flags := { TF := true }, regs := { sp := 0x0100 }, lines := { test := false } } with
      | .next t => (t.regs.sp, t.waiting, t.trapArmed)
      | _ => (0, true, true)) = (0x00FA, false, false) := by
  decide

/-- 60_exceptions.md R362: an active test line ends the wait and nothing else happens. -/
theorem test_wait_ends :
    step { fetching [0x90] with waiting := true, lines := { test := true } } = .next { fetching [0x90] with lines := { test := true } } := by
  rfl

/-- 20_memory.md R72: a byte stored to in this run is not executed, whatever it holds now. -/
theorem test_stored_byte : step { fetching [0x90] with stored := [0x1100] } = .refused .staleInstructionByte := by rfl

/-- 20_memory.md R72: the queue holds six bytes beyond the instruction, and a jump empties it. -/
theorem test_queue :
    (match step (fetching [0x90]) with
      | .next t => t.queue.length
      | _ => 0) = 7 ∧
    (match step (fetching [0xEB, 0x10]) with
      | .next t => t.queue
      | _ => [(0, 0)]) = [] := by
  decide

/-! ### Witnesses: for every statement with hypotheses, a state and operands that meet them -/

theorem witness_StepKeepsConsistent : State.reset.consistent = true ∧ ∃ t, step State.reset = .next t :=
  ⟨by decide, _, rfl⟩

/-- A consistent state with program text, a store and a queue, from which a step goes on. -/
theorem witness_StepKeepsConsistent_text :
    let s := { fetching [0x90] with
      text := [{ base := 0x1100, size := 8 }], executed := [0x10FF], stored := [0x20000], queue := [(0x1100, 0x90)] };
    s.consistent = true ∧ (match step s with | .next t => t.executed == [0x1100, 0x10FF] | _ => false) = true := by
  decide

theorem witness_WordsAreLittleEndian :
    (0xFFFE : Word) ≠ 0xFFFF ∧ (0x102 : Nat) ≠ phys 0x0010 0 ∧ 0x102 ≠ physHigh 0x0010 0 := by decide

theorem witness_StepRunsDecodedInstruction :
    let s := fetching [0x90];
    s.lines.reset = false ∧ s.halted = false ∧ s.waiting = false ∧ decode s.fetchBytes = .ok (.nop, [0, 0, 0, 0, 0]) ∧
      s.storedFrom s.ip (maxInstrBytes - 5) = false ∧ s.prefixRefusal .nop = none ∧ s.repetitionInterrupted .nop = false :=
  ⟨rfl, rfl, rfl, rfl, rfl, rfl, rfl⟩

/-- A prefix, and an instruction after a prefix. -/
theorem witness_StepRunsDecodedInstruction_prefix :
    (let s := fetching [0xF3, 0xAA];
      s.lines.reset = false ∧ s.halted = false ∧ s.waiting = false ∧
        decode s.fetchBytes = .ok (.rep, [0xAA, 0, 0, 0, 0]) ∧ s.storedFrom s.ip (maxInstrBytes - 5) = false ∧
        s.prefixRefusal .rep = none ∧ s.repetitionInterrupted .rep = false) ∧
    let s := { fetching [0xF3, 0xAA] with
      ip := 0x0101, regs := { cx := 2 }, pre := { active := true, rep := some true, seg := some .ss } };
    s.lines.reset = false ∧ s.halted = false ∧ s.waiting = false ∧
      decode s.fetchBytes = .ok (.stos .byte, [0, 0, 0, 0, 0]) ∧ s.storedFrom s.ip (maxInstrBytes - 5) = false ∧
      s.prefixRefusal (.stos .byte) = none ∧ s.repetitionInterrupted (.stos .byte) = false :=
  ⟨⟨rfl, rfl, rfl, rfl, rfl, rfl, rfl⟩, rfl, rfl, rfl, rfl, rfl, rfl, rfl⟩

theorem witness_DecodeOfEncode : (Instr.bound .di (.indexed .bp (.d8 0x80))).wellFormed = true := by decide

theorem witness_EncodeOfDecode : decode [0xC8, 0x04, 0x00, 0x01, 0x90] = .ok (.enter 4 1, [0x90]) := rfl

theorem witness_DecimalAdjustResults : dasIsFree 0x99 true false = false ∧ dasIsFree 0x06 true false = false := by decide

theorem witness_PackedDecimalArithmetic : (start { ax := 0x0099 } {} []).reg8 .al = packedDecimal 99 := by decide

/-- Every clause at the largest quotient that fits (95_test_vectors.md S10, S11). -/
theorem witness_DivisionResults_unsigned :
    (let s := start { ax := 0xFEFF, bx := 0xFF } {} [];
      (s.readRM8 (.reg .bl)).toNat ≠ 0 ∧ s.regs.ax.toNat / (s.readRM8 (.reg .bl)).toNat = 0xFF) ∧
    let s := start { dx := 0xFFFE, ax := 0xFFFF, bx := 0xFFFF } {} [];
    (s.readRM16 (.reg .bx)).toNat ≠ 0 ∧ (s.regs.dx ++ s.regs.ax).toNat / (s.readRM16 (.reg .bx)).toNat = 0xFFFF := by
  decide

theorem witness_DivisionResults_signed :
    (let s := start { ax := 0xFF81, bx := 1 } {} [];
      (s.readRM8 (.reg .bl)).toInt ≠ 0 ∧ s.regs.ax.toInt.tdiv (s.readRM8 (.reg .bl)).toInt = -127) ∧
    let s := start { dx := 0xFFFF, ax := 0x8001, bx := 1 } {} [];
    (s.readRM16 (.reg .bx)).toInt ≠ 0 ∧ (s.regs.dx ++ s.regs.ax).toInt.tdiv (s.readRM16 (.reg .bx)).toInt = -32767 := by
  decide

/-- The other end of the signed quotients. -/
theorem witness_DivisionResults_signed_positive :
    (let s := start { ax := 0x007F, bx := 1 } {} [];
      (s.readRM8 (.reg .bl)).toInt ≠ 0 ∧ s.regs.ax.toInt.tdiv (s.readRM8 (.reg .bl)).toInt = 127) ∧
    let s := start { dx := 0, ax := 0x7FFF, bx := 1 } {} [];
    (s.readRM16 (.reg .bx)).toInt ≠ 0 ∧ (s.regs.dx ++ s.regs.ax).toInt.tdiv (s.readRM16 (.reg .bx)).toInt = 32767 := by
  decide

/-- Every clause at the first quotient that does not fit. -/
theorem witness_DivideErrorEntersTypeZero_unsigned :
    (let s := start { ax := 0x0100, bx := 1 } {} [];
      0xFF < s.regs.ax.toNat / (s.readRM8 (.reg .bl)).toNat) ∧
    let s := start { dx := 1, bx := 1 } {} [];
    0xFFFF < (s.regs.dx ++ s.regs.ax).toNat / (s.readRM16 (.reg .bx)).toNat := by
  decide

theorem witness_DivideErrorEntersTypeZero_signed :
    (let s := start { ax := 0x0080, bx := 1 } {} [];
      127 < s.regs.ax.toInt.tdiv (s.readRM8 (.reg .bl)).toInt) ∧
    let s := start { dx := 0xFFFF, ax := 0x7FFF, bx := 1 } {} [];
    (s.regs.dx ++ s.regs.ax).toInt.tdiv (s.readRM16 (.reg .bx)).toInt < -32768 := by
  decide

/-- Zero divisors of every clause, and the other end of the signed ones. -/
theorem witness_DivideErrorEntersTypeZero_ends :
    (let s := start { ax := 5 } {} [];
      (s.readRM8 (.reg .bl)).toNat = 0 ∧ (s.readRM16 (.reg .bx)).toNat = 0 ∧ (s.readRM8 (.reg .bl)).toInt = 0 ∧
        (s.readRM16 (.reg .bx)).toInt = 0) ∧
    (let s := start { ax := 0xFF7F, bx := 1 } {} [];
      s.regs.ax.toInt.tdiv (s.readRM8 (.reg .bl)).toInt < -128) ∧
    let s := start { dx := 0, ax := 0x8000, bx := 1 } {} [];
    32767 < (s.regs.dx ++ s.regs.ax).toInt.tdiv (s.readRM16 (.reg .bx)).toInt := by
  decide

theorem witness_DivideErrorEntersTypeZero_minimum :
    (let s := start { ax := 0xFF80, bx := 1 } {} [];
      (s.readRM8 (.reg .bl)).toInt ≠ 0 ∧ s.regs.ax.toInt.tdiv (s.readRM8 (.reg .bl)).toInt = -128) ∧
    let s := start { dx := 0xFFFF, ax := 0x8000, bx := 1 } {} [];
    (s.readRM16 (.reg .bx)).toInt ≠ 0 ∧ (s.regs.dx ++ s.regs.ax).toInt.tdiv (s.readRM16 (.reg .bx)).toInt = -32768 := by
  decide

/-- The counts the clauses of the shift and rotate statements tell apart. -/
theorem witness_ShiftResults :
    State.reset.turns .one = 1 ∧ State.reset.turns (.imm 0) = 0 ∧ State.reset.turns (.imm 31) = 31 ∧
      State.reset.turns .cl = 0 := by
  decide

theorem witness_RotateResults : State.reset.turns (ShiftForm.count (.rm8 (.reg .al) .one)) = 1 := by decide

/-- A whole turn of the ring of 9 bits, and a single step with CF set. -/
theorem witness_RotateThroughCarryResults :
    (start {} { CF := true } []).turns (ShiftForm.count (.rm8 (.reg .al) (.imm 9))) = 9 ∧
      (start {} { CF := true } []).turns (ShiftForm.count (.rm16 (.reg .ax) .one)) = 1 := by
  decide

theorem witness_ReturnsUndoTransfers :
    ∃ t, exec (.callNear 4) State.reset = .next t ∧ t.reg .sp = t.reg .sp ∧ t.seg .ss = t.seg .ss ∧ t.mem = t.mem :=
  ⟨_, rfl, rfl, rfl, rfl⟩

/-- INTO with OF set. -/
theorem witness_ReturnsUndoTransfers_into :
    (start {} { OF := true } []).flags.OF = true ∧
      ∃ t, exec .into (start {} { OF := true } []) = .next t ∧ t.reg .sp = t.reg .sp ∧ t.seg .ss = t.seg .ss ∧ t.mem = t.mem :=
  ⟨rfl, _, rfl, rfl, rfl, rfl⟩

theorem witness_StringMoves : State.reset.pre.rep = none := rfl

theorem witness_StringCompares : (start { si := 0xFFFF } { DF := true } []).pre.rep = none := rfl

theorem witness_PortInstructions : (start { dx := 0x0300 } {} []).pre.rep = none := rfl

/-- REP with the counts its clauses tell apart: 0, 1 and more. -/
theorem witness_RepeatedStrings :
    ([0, 1, 2] : List Word).all (fun n =>
      let s := { start { cx := n } {} [] with pre := { active := true, rep := some true } };
      s.pre.rep == some true && s.reg .cx == n) = true := by
  decide

/-- A request due before the first repetition. -/
theorem witness_RepeatedStrings_request :
    let s := { fetching [0xF3, 0xAA] with
      ip := 0x0101, regs := { cx := 2 }, pre := { active := true, rep := some true }, lines := { nmi := true } };
    s.lines.reset = false ∧ s.halted = false ∧ s.waiting = false ∧
      decode s.fetchBytes = .ok (.stos .byte, [0, 0, 0, 0, 0]) ∧ s.storedFrom s.ip (maxInstrBytes - 5) = false ∧
      s.prefixRefusal (.stos .byte) = none ∧ Instr.isString (.stos .byte) = true ∧ s.pre.rep.isSome = true ∧
      s.reg .cx ≠ 0 ∧ s.request = some (2, { nmi := false }) :=
  ⟨rfl, rfl, rfl, rfl, rfl, rfl, rfl, rfl, by decide, rfl⟩

/-- Levels 1 and 2, and the largest that is used as it stands. -/
theorem witness_EnterBuildsFrame :
    (1 : Byte).toNat ≤ 31 ∧ (2 : Byte).toNat ≤ 31 ∧ (31 : Byte).toNat ≤ 31 ∧
      effectiveCount Config.enterLevelMaskedTo5 2 = 2 := by
  decide

theorem witness_LeaveUndoesEnter :
    ∃ t, exec (.enter 4 1) State.reset = .next t ∧ t.reg .bp = t.reg .bp ∧ t.seg .ss = t.seg .ss ∧ t.mem = t.mem :=
  ⟨_, rfl, rfl, rfl, rfl⟩

/-- Both requests due together with the trap, after an instruction and after WAIT. -/
theorem witness_BoundaryTakesInterrupts :
    let t := { start {} { IF := true } [] with lines := { nmi := true, intr := some 0x20 }, trapArmed := true };
    t.request = some (2, { nmi := false, intr := some 0x20 }) ∧
      ({ t with waiting := true } : State).request = some (2, { nmi := false, intr := some 0x20 }) := by
  decide

/-- The final state, a halted state with a request, and a waiting state whose test line is active. -/
theorem witness_HaltAndWaitStates :
    (let s := { start {} {} [] with halted := true };
      s.lines.reset = false ∧ (s.halted || s.waiting) = true ∧ s.final = true) ∧
    (let s := { start {} { IF := true } [] with halted := true, lines := { intr := some 0x20 } };
      s.lines.reset = false ∧ (s.halted || s.waiting) = true ∧ s.final = false) ∧
    let s := { start {} {} [] with waiting := true };
    s.lines.reset = false ∧ (s.halted || s.waiting) = true ∧ s.lines.test = true := by
  decide

theorem witness_ResetLine : ({ start {} {} [] with lines := { reset := true } } : State).lines.reset = true := rfl

/-- A byte of the instruction stored to in this run. -/
theorem witness_StepRefusals_stale :
    let s := { fetching [0x90] with stored := [0x1100] };
    s.lines.reset = false ∧ s.halted = false ∧ s.waiting = false ∧ decode s.fetchBytes = .ok (.nop, [0, 0, 0, 0, 0]) ∧
      s.storedFrom s.ip (maxInstrBytes - 5) = true :=
  ⟨rfl, rfl, rfl, rfl, rfl⟩

/-- REP before NOP, and LOCK before NOP. -/
theorem witness_StepRefusals_prefixes :
    (let s := { fetching [0x90] with pre := { active := true, rep := some true } };
      decode s.fetchBytes = .ok (.nop, [0, 0, 0, 0, 0]) ∧ s.storedFrom s.ip (maxInstrBytes - 5) = false ∧
        s.pre.rep.isSome = true ∧ Instr.isString .nop = false) ∧
    let s := { fetching [0x90] with pre := { active := true, lock := true } };
    decode s.fetchBytes = .ok (.nop, [0, 0, 0, 0, 0]) ∧ s.storedFrom s.ip (maxInstrBytes - 5) = false ∧
      s.pre.rep = none ∧ s.pre.lock = true ∧ Instr.hasMemoryDestination .nop = false :=
  ⟨⟨rfl, rfl, rfl, rfl⟩, rfl, rfl, rfl, rfl, rfl⟩

/-- AAM with base 10H, and the undefined opcode 0FH, also with a byte behind it that was stored to. -/
theorem witness_StepRefusals_undefined :
    (let s := fetching [0xD4, 0x10];
      decode s.fetchBytes = .error (.decimalBase 0xD4 0x10) ∧ s.storedFrom s.ip 2 = false) ∧
    let s := { fetching [0x0F] with stored := [0x1101] };
    decode s.fetchBytes = .error (.undefinedOpcode 0x0F) ∧
      s.storedFrom s.ip (DecodeError.span (.undefinedOpcode 0x0F)) = false :=
  ⟨⟨rfl, rfl⟩, rfl, rfl⟩

theorem witness_ControlFlagAndCsWriters : ∃ t, exec (.add (.al 1)) State.reset = .next t := ⟨_, rfl⟩

end Sys2Proof.Tests
end

section
/-! PROOF. The family of 10_state.md: the state after reset, the invariant of a step, the writers of the control flags and
of CS. First what a step can do, said once; then what it does to the record of the run. -/

namespace Sys2Proof.Machine

/-! ### The state after reset -/

/-- Settles O1: each value is read off `State.reset`. -/
theorem resetStateValues : Obligations.ResetStateValues := by
  unfold Obligations.ResetStateValues
  refine ⟨rfl, rfl, rfl, rfl, rfl, rfl, rfl, rfl, rfl, rfl, rfl, rfl, ?_⟩
  decide

/-- Settles O2: memory, queue and record are empty, nothing is in force. -/
theorem resetIsConsistent : Obligations.ResetIsConsistent := by
  unfold Obligations.ResetIsConsistent
  rfl

/-! ### What a step can do -/

/-- The state an undefined encoding enters its interrupt from: its bytes executed, the inhibitions over. -/
def State.atUndefined (s : State) (e : DecodeError) : State :=
  { (s.begin 0).executing (DecodeError.span e) with stiShadow := false, segInhibit := false }

/-- The machine decodes and executes: no RESET, neither halted nor waiting. -/
def State.running (s : State) : Prop := s.lines.reset = false ∧ s.halted = false ∧ s.waiting = false

/-- The ways from `s` to the state of its next step, before `State.settle` looks at the stores, each with the guards under
which it is gone. -/
inductive State.StepsTo (s : State) : State → Prop
  | reset (hr : s.lines.reset = true) : State.StepsTo s s.onReset
  | idle (hr : s.lines.reset = false) (hi : s.halted = true ∨ s.waiting = true) : State.StepsTo s s.idle
  | request {i : Instr} {rest : Bytes} (run : s.running) (hd : decode s.fetchBytes = .ok (i, rest))
      (hq : s.repetitionInterrupted i = true) : State.StepsTo s s.interruptRepetition
  | prefixByte {i : Instr} {rest : Bytes} {t : State} (run : s.running) (hd : decode s.fetchBytes = .ok (i, rest))
      (fresh : s.storedFrom s.ip (maxInstrBytes - rest.length) = false) (hi : Instr.isPrefix i = true)
      (he : exec i (s.beginInstr i (maxInstrBytes - rest.length)) = .next t) : State.StepsTo s t
  | instr {i : Instr} {rest : Bytes} {t : State} (run : s.running) (hd : decode s.fetchBytes = .ok (i, rest))
      (fresh : s.storedFrom s.ip (maxInstrBytes - rest.length) = false) (hp : s.prefixRefusal i = none)
      (hi : Instr.isPrefix i = false) (he : exec i (s.beginInstr i (maxInstrBytes - rest.length)) = .next t) :
      State.StepsTo s (s.endInstr t)
  | undefined {e : DecodeError} (run : s.running) (hd : decode s.fetchBytes = .error e)
      (fresh : s.storedFrom s.ip (DecodeError.span e) = false) :
      State.StepsTo s (s.endInstr ((s.atUndefined e).interrupt 6 (s.atUndefined e).thisIp))

/-- Bytes that are no instruction enter type 6, if they have a meaning at all. -/
theorem State.undefinedEncoding_next {s t : State} {e : DecodeError} (h : s.undefinedEncoding e = .next t) :
    t = s.endInstr ((s.atUndefined e).interrupt 6 (s.atUndefined e).thisIp) := by
  cases e with
  | decimalBase | truncated => cases h
  | undefinedOpcode | undefinedGroup | registerOperand | segmentNumber | codeSegmentLoad =>
    unfold State.undefinedEncoding at h
    dsimp only at h
    split at h
    · exact (Host.Outcome.next.inj h).symm
    · cases h

/-- A meaning's answer goes on as `State.finish` says. -/
theorem State.finish_next {s t : State} {i : Instr} {r : Result} (h : s.finish i r = .next t) :
    ∃ u, r = .next u ∧ t = if Instr.isPrefix i then u else s.endInstr u := by
  cases r with
  | next u => cases h; exact ⟨u, rfl, rfl⟩
  | fault | refused => cases h

/-- A step that answers a next state has gone one of the ways, and stored nothing into program text. -/
theorem step_next {s t : State} (h : step s = .next t) : s.StepsTo t ∧ s.storesIntoText t = false := by
  obtain ⟨h, hn⟩ := State.settle_next h
  refine ⟨?_, hn⟩
  by_cases hr : s.lines.reset = true
  · rw [if_pos hr] at h
    cases h; exact .reset hr
  rw [if_neg hr] at h
  by_cases hi : (s.halted || s.waiting) = true
  · rw [if_pos hi] at h
    cases h; exact .idle (by simpa using hr) (by simpa using hi)
  rw [if_neg hi] at h
  have run : s.running := by simpa [State.running] using And.intro hr hi
  split at h
  next i rest hd =>
    dsimp only at h
    split at h
    · cases h
    next fresh =>
    have fresh : s.storedFrom s.ip (maxInstrBytes - rest.length) = false := by simpa using fresh
    split at h
    · cases h
    next hp =>
    split at h
    next hq => cases h; exact .request run hd hq
    next =>
      obtain ⟨u, he, rfl⟩ := State.finish_next h
      cases hi : Instr.isPrefix i with
      | true => exact .prefixByte run hd fresh hi he
      | false => exact .instr run hd fresh hp hi he
  next e hd =>
    split at h
    · cases h
    next fresh =>
      cases State.undefinedEncoding_next h
      exact .undefined run hd (by simpa using fresh)

/-! ### The parts of the invariant -/

/-- The prefixes in force are consistent, the halt and wait states exclusive, and neither is entered inside a prefixed
instruction. -/
def State.modesConsistent (s : State) : Prop :=
  s.pre.consistent = true ∧ ¬ (s.halted = true ∧ s.waiting = true) ∧
    (s.halted = true ∨ s.waiting = true → s.pre.active = false)

theorem State.consistent_iff (s : State) :
    s.consistent = true ↔
      s.mem.wf = true ∧ s.modesConsistent ∧ s.textIsFixed = true ∧ s.queueIsCoherent = true := by
  simp only [State.consistent, State.modesConsistent, Bool.and_eq_true, Bool.not_eq_true', Bool.and_eq_false_iff,
    Bool.or_eq_false_iff]
  cases s.halted <;> cases s.waiting <;> simp [and_assoc]

/-- With no prefixes in force, only the halt and wait states matter. -/
theorem State.modesConsistent_of_pre {s : State} (hp : s.pre = {}) (h : ¬ (s.halted = true ∧ s.waiting = true)) :
    s.modesConsistent :=
  ⟨by rw [hp]; rfl, h, fun _ => by rw [hp]⟩

/-- In a running machine only the prefixes matter. -/
theorem State.modesConsistent_of_running {s : State} (hh : s.halted = false) (hw : s.waiting = false)
    (hp : s.pre.consistent = true) : s.modesConsistent := by
  simp [State.modesConsistent, hh, hw, hp]

/-- What has become of the record of the run from `s` to `t`: only bytes not stored to before have been executed, every
changed byte is recorded as stored to, and the queue is coherent (20_memory.md R72; log 22). -/
structure State.Records (s t : State) : Prop where
  text : t.text = s.text
  executed : ∃ l : List Nat, t.executed = l.foldl recorded s.executed ∧ ∀ a ∈ l, a ∉ s.stored
  stored : s.stored <:+ t.stored
  mem : ∀ a, a ∉ t.stored → t.mem.read a = s.mem.read a
  queue : t.queueIsCoherent = true

namespace State.Records

variable {s t u : State}

theorem refl (hq : s.queueIsCoherent = true) : s.Records s :=
  ⟨rfl, ⟨[], rfl, fun _ h => nomatch h⟩, List.suffix_rfl, fun _ _ => rfl, hq⟩

theorem tracked (h : s.Records t) (k : t.tracked u) : s.Records u := by
  obtain ⟨l, hl, fresh⟩ := h.executed
  have hq := State.queueIsCoherent_of_tracked k h.queue
  obtain ⟨ktext, kexecuted, kstored, kmem, -⟩ := k
  exact ⟨ktext.trans h.text, ⟨l, kexecuted.trans hl, fresh⟩, h.stored.trans kstored,
    fun a ha => (kmem a ha).trans (h.mem a fun e => ha (kstored.subset e)), hq⟩

/-- Executing bytes that were not stored to. -/
theorem executing (h : s.Records t) {n : Nat} (fresh : t.storedFrom t.ip n = false) : s.Records (t.executing n) := by
  obtain ⟨l, hl, old⟩ := h.executed
  refine ⟨h.text, ⟨l ++ t.codeAddrs t.ip n, ?_, fun a ha => ?_⟩, h.stored, h.mem, h.queue⟩
  · rw [List.foldl_append, ← hl]; rfl
  · rcases List.mem_append.mp ha with ha | ha
    · exact old a ha
    · exact fun e => (State.storedFrom_eq_false t t.ip n).mp fresh a ha (h.stored.subset e)

/-- What belongs to program text goes on to belong to it. -/
theorem mayExecute_mono (h : s.Records t) {a : Nat} (ha : s.mayExecute a = true) : t.mayExecute a = true := by
  obtain ⟨l, hl, -⟩ := h.executed
  exact (State.mayExecute_of h.text hl a).mpr (.inr ha)

/-- Program text stays fixed through a step that stores nothing into it. -/
theorem textIsFixed (h : s.Records t) (hs : s.textIsFixed = true) (hn : s.storesIntoText t = false) :
    t.textIsFixed = true := by
  obtain ⟨l, hl, fresh⟩ := h.executed
  refine State.textIsFixed_of (fun a ha => ?_) h.stored hn
  rw [Bool.eq_false_iff, Ne, State.mayExecute_of h.text hl a]
  rintro (hal | hmay)
  · exact fresh a hal ha
  · simp [(State.textIsFixed_iff s).mp hs a ha] at hmay

/-- A byte of program text is neither stored to nor changed. -/
theorem keeps_text (h : s.Records t) (hs : s.textIsFixed = true) (hn : s.storesIntoText t = false) {a : Nat}
    (ha : s.mayExecute a = true) : (a ∈ t.stored → a ∈ s.stored) ∧ t.mem.read a = s.mem.read a := by
  have notStored : a ∉ t.stored := fun e => by
    have := (State.textIsFixed_iff t).mp (h.textIsFixed hs hn) a e
    simp [h.mayExecute_mono ha] at this
  exact ⟨fun e => absurd e notStored, h.mem a notStored⟩

end State.Records

/-! ### Before the meaning -/

theorem State.codeAddrs_congr {s t : State} (h : t.segs = s.segs) (o : Word) (n : Nat) :
    t.codeAddrs o n = s.codeAddrs o n := by
  induction n generalizing o with
  | zero => rfl
  | succ k ih => simp only [State.codeAddrs, State.codeAddr, h, ih]

/-- `begin` executes its bytes and fills the queue. -/
theorem State.begin_records {s : State} {n : Nat} (hq : s.queueIsCoherent = true)
    (fresh : s.storedFrom s.ip n = false) : s.Records (s.begin n) where
  text := rfl
  executed := ⟨s.codeAddrs s.ip n, rfl, (State.storedFrom_eq_false s s.ip n).mp fresh⟩
  stored := List.suffix_rfl
  mem _ _ := rfl
  queue := (State.queueIsCoherent_iff _).mpr (State.queueFrom_coherent hq _ _)

/-- What `beginInstr` changes: IP, `this_ip`, the trap, the inhibitions, the queue and what has been executed. -/
theorem State.beginInstr_keeps (s : State) (i : Instr) (n : Nat) :
    (s.beginInstr i n).mem = s.mem ∧ (s.beginInstr i n).pre = s.pre ∧ (s.beginInstr i n).halted = s.halted ∧
      (s.beginInstr i n).waiting = s.waiting := by
  unfold State.beginInstr
  split <;> exact ⟨rfl, rfl, rfl, rfl⟩

theorem State.beginInstr_records {s : State} {n : Nat} (i : Instr) (hq : s.queueIsCoherent = true)
    (fresh : s.storedFrom s.ip n = false) : s.Records (s.beginInstr i n) := by
  obtain ⟨text, executed, stored, mem, queue⟩ := State.begin_records hq fresh
  unfold State.beginInstr
  split <;> exact ⟨text, executed, stored, mem, queue⟩

theorem State.atUndefined_records {s : State} {e : DecodeError} (hq : s.queueIsCoherent = true)
    (fresh : s.storedFrom s.ip (DecodeError.span e) = false) : s.Records (s.atUndefined e) := by
  have fresh0 : (s.begin 0).storedFrom (s.begin 0).ip (DecodeError.span e) = false := by
    have hip : (s.begin 0).ip = s.ip := BitVec.add_zero s.ip
    rw [State.storedFrom, hip, State.codeAddrs_congr (t := s.begin 0) (s := s) rfl]
    exact fresh
  obtain ⟨text, executed, stored, mem, queue⟩ := (State.begin_records hq (n := 0) rfl).executing fresh0
  exact ⟨text, executed, stored, mem, queue⟩

/-! ### The meaning -/

/-- The prefixes put themselves in force and do nothing else. -/
theorem exec_prefix {i : Instr} {s t : State} (h : exec i s = .next t) (hi : Instr.isPrefix i = true) :
    ∃ p : Prefixes, t = { s with pre := p } ∧ p.active = true ∧ p.again = s.pre.again := by
  cases i with
  | lock | seg | rep | repne => cases h; exact ⟨_, rfl, rfl, rfl⟩
  | _ => cases hi

/-- The meaning of an instruction, run on a machine that is neither halted nor waiting, keeps memory's canonical form and
the record, and enters at most one of the two states. -/
theorem exec_keeps {i : Instr} {s t : State} (h : exec i s = .next t) (hi : Instr.isPrefix i = false)
    (hh : s.halted = false) (hw : s.waiting = false) :
    (s.mem.wf = true → t.mem.wf = true) ∧ ¬ (t.halted = true ∧ t.waiting = true) ∧ s.tracked t := by
  by_cases hhlt : i = .hlt
  · subst hhlt; cases h
    exact ⟨id, by simp [hw], s.tracked_refl⟩
  by_cases hwait : i = .wait
  · subst hwait; cases h
    split
    · exact ⟨id, by simp [hw], s.tracked_refl⟩
    · exact ⟨id, by simp [hh], s.tracked_refl⟩
  by_cases hstring : Instr.isString i = true
  · obtain ⟨u, ⟨hmem, -, hhalt, -, -, htracked⟩, rfl | rfl⟩ := exec_string_steady h hstring
    all_goals exact ⟨hmem, by simp [hhalt hh], htracked⟩
  · obtain ⟨hmem, -, hhalt, -, -, htracked⟩ := exec_steady h hhlt hwait (by simp [hi]) hstring
    exact ⟨hmem, by simp [hhalt hh], htracked⟩

/-! ### After the meaning -/

/-- At the end of an instruction the prefixes end; the boundary keeps the rest. -/
theorem State.endInstr_keeps (s t : State) :
    (t.mem.wf = true → (s.endInstr t).mem.wf = true) ∧ (s.endInstr t).pre = {} ∧
      ((s.endInstr t).halted = true → t.halted = true) ∧ ((s.endInstr t).waiting = true → t.waiting = true) ∧
      t.tracked (s.endInstr t) := by
  unfold State.endInstr
  split
  · exact State.boundary_keeps { t with pre := {}, stiShadow := s.stiShadow, segInhibit := s.segInhibit }
  · exact State.boundary_keeps { t with pre := {} }

/-- What a step in the halt or wait state keeps. -/
theorem State.idle_keeps (s : State) :
    (s.mem.wf = true → s.idle.mem.wf = true) ∧ s.idle.pre = s.pre ∧ (s.idle.halted = true → s.halted = true) ∧
      (s.idle.waiting = true → s.waiting = true) ∧ s.tracked s.idle := by
  have taken : ∀ l n, (let t := ({ s with lines := l } : State).interrupt n s.returnIp
      (s.mem.wf = true → t.mem.wf = true) ∧ t.pre = s.pre ∧ (t.halted = true → s.halted = true) ∧
        (t.waiting = true → s.waiting = true) ∧ s.tracked t) := by
    intro l n
    obtain ⟨hmem, hpre, -, -, htracked⟩ := State.taken_keeps s l n s.returnIp
    exact ⟨hmem, hpre, fun h => Bool.noConfusion h, fun h => Bool.noConfusion h, htracked⟩
  unfold State.idle
  split
  · exact taken _ _
  · split
    · exact taken _ _
    · split
      · exact ⟨id, rfl, id, fun h => Bool.noConfusion h, s.tracked_refl⟩
      · exact ⟨id, rfl, id, id, s.tracked_refl⟩

/-! ### The invariant -/

/-- Every way a step can go, RESET apart, keeps the parts of the invariant, program text apart. -/
theorem State.StepsTo.keeps {s t : State} (hs : s.consistent = true) (h : s.StepsTo t) (hr : s.lines.reset = false) :
    t.mem.wf = true ∧ t.modesConsistent ∧ s.Records t := by
  obtain ⟨hmem, ⟨hpre, hmodes, hactive⟩, -, hq⟩ := (State.consistent_iff s).mp hs
  have again : s.pre.again = false := by
    simp only [Prefixes.consistent, Bool.and_eq_true, Bool.not_eq_true'] at hpre
    exact hpre.1
  cases h with
  | reset hr' => simp [hr] at hr'
  | idle =>
    obtain ⟨kmem, kpre, khalted, kwaiting, ktracked⟩ := s.idle_keeps
    refine ⟨kmem hmem, ⟨kpre ▸ hpre, fun h => hmodes (h.imp khalted kwaiting), fun h => ?_⟩,
      (State.Records.refl hq).tracked ktracked⟩
    rw [kpre]; exact hactive (h.imp khalted kwaiting)
  | request run =>
    obtain ⟨-, hh, hw⟩ := run
    obtain ⟨kmem, kpre, khalted, -, ktracked⟩ := State.takeExternal_keeps { s with ip := s.startIp, pre := {} }
    refine ⟨kmem hmem, State.modesConsistent_of_pre kpre fun h => ?_, (State.Records.refl hq).tracked ktracked⟩
    simpa [hh] using khalted h.1
  | @prefixByte i _ _ run _ fresh hi he =>
    obtain ⟨-, hh, hw⟩ := run
    obtain ⟨bmem, bpre, bhalted, bwaiting⟩ := s.beginInstr_keeps i _
    obtain ⟨text, executed, stored, mem, queue⟩ := State.beginInstr_records i hq fresh
    obtain ⟨p, rfl, pactive, pagain⟩ := exec_prefix he hi
    refine ⟨bmem ▸ hmem, State.modesConsistent_of_running (bhalted.trans hh) (bwaiting.trans hw) ?_,
      ⟨text, executed, stored, mem, queue⟩⟩
    simp [Prefixes.consistent, pactive, pagain, bpre, again]
  | @instr i _ u run _ fresh _ hi he =>
    obtain ⟨-, hh, hw⟩ := run
    obtain ⟨bmem, -, bhalted, bwaiting⟩ := s.beginInstr_keeps i _
    obtain ⟨umem, umodes, utracked⟩ := exec_keeps he hi (bhalted.trans hh) (bwaiting.trans hw)
    obtain ⟨emem, epre, ehalted, ewaiting, etracked⟩ := s.endInstr_keeps u
    exact ⟨emem (umem (bmem ▸ hmem)),
      State.modesConsistent_of_pre epre fun h => umodes (h.imp ehalted ewaiting),
      ((State.beginInstr_records i hq fresh).tracked utracked).tracked etracked⟩
  | @undefined e run _ fresh =>
    obtain ⟨umem, -, -, -, -, utracked⟩ :=
      State.steady_interrupt (State.steady_refl (s.atUndefined e)) 6 (s.atUndefined e).thisIp
    obtain ⟨emem, epre, ehalted, -, etracked⟩ :=
      s.endInstr_keeps ((s.atUndefined e).interrupt 6 (s.atUndefined e).thisIp)
    exact ⟨emem (umem hmem), State.modesConsistent_of_pre epre fun h => Bool.noConfusion (ehalted h.1),
      ((State.atUndefined_records hq fresh).tracked utracked).tracked etracked⟩

/-- RESET starts a new run on the same memory and program text. -/
theorem State.onReset_consistent {s : State} (hm : s.mem.wf = true) : s.onReset.consistent = true :=
  (State.consistent_iff _).mpr
    ⟨hm, State.modesConsistent_of_pre rfl fun h => Bool.noConfusion h.1, rfl, rfl⟩

/-- Settles O3: RESET empties the record of the run; every other way of a step extends it by fresh bytes, and `settle`
refuses a store into program text. -/
theorem stepKeepsConsistent : Obligations.StepKeepsConsistent := by
  unfold Obligations.StepKeepsConsistent
  intro s t hs h
  obtain ⟨hto, hn⟩ := step_next h
  obtain ⟨hmem, -, hfixed, -⟩ := (State.consistent_iff s).mp hs
  cases hr : s.lines.reset with
  | true =>
    cases hto with
    | reset => exact ⟨State.onReset_consistent hmem, rfl, fun a _ => ⟨fun e => (List.not_mem_nil e).elim, rfl⟩⟩
    | idle hr' => simp [hr] at hr'
    | request run | prefixByte run | instr run | undefined run => simp [hr, State.running] at run
  | false =>
    obtain ⟨tmem, tmodes, trecords⟩ := hto.keeps hs hr
    exact ⟨(State.consistent_iff t).mpr ⟨tmem, tmodes, trecords.textIsFixed hfixed hn, trecords.queue⟩,
      trecords.text, fun a ha => trecords.keeps_text hfixed hn ha⟩

end Sys2Proof.Machine
end

section
/-! PROOF. Which meanings write DF, IF, TF and CS (10_state.md R23, R28): said once per shared operation, then for `exec`. -/

namespace Sys2Proof.Machine

/-- DF, IF, TF and CS are as before. -/
def State.keepsControl (s t : State) : Prop := s.flags.keepsControl t.flags ∧ t.segs.cs = s.segs.cs

/-- DF is as before; IF and TF are as before or cleared. -/
def State.mayClearTraps (s t : State) : Prop :=
  t.flags.DF = s.flags.DF ∧ (t.flags.IF = s.flags.IF ∨ t.flags.IF = false) ∧
    (t.flags.TF = s.flags.TF ∨ t.flags.TF = false)

theorem State.keepsControl_refl (s : State) : s.keepsControl s := ⟨⟨rfl, rfl, rfl⟩, rfl⟩

/-- The instructions that can change a control flag or CS. -/
def Instr.writesControl : Instr → Bool
  | .cld | .std | .cli | .sti | .popf | .iret => true
  | .callFar _ _ | .callFarInd _ | .jmpFar _ _ | .jmpFarInd _ | .retFar | .retFarPop _ => true
  | .int _ | .int3 | .into | .bound _ _ | .div _ | .idiv _ | .esc _ _ => true
  | _ => false

/-- The instructions that can enter an interrupt sequence of their own. -/
def Instr.mayInterrupt : Instr → Bool
  | .int _ | .int3 | .into | .bound _ _ | .div _ | .idiv _ | .esc _ _ => true
  | _ => false

variable {s t : State}

/-! ### The updates -/

theorem State.keepsControl_writeRM8 (h : s.keepsControl t) (d : RM8) (v : Byte) : s.keepsControl (t.writeRM8 d v) := by
  cases d <;> exact h

theorem State.keepsControl_writeRM16 (h : s.keepsControl t) (d : RM16) (v : Word) :
    s.keepsControl (t.writeRM16 d v) := by
  cases d <;> exact h

theorem State.keepsControl_jumpIf (h : s.keepsControl t) (c : Bool) (d : Byte) : s.keepsControl (t.jumpIf c d) := by
  cases c <;> exact h

theorem State.keepsControl_repeatTimes {f : State → State} (hf : ∀ u, s.keepsControl u → s.keepsControl (f u)) (n : Nat)
    (h : s.keepsControl t) : s.keepsControl (repeatTimes n f t) := by
  induction n generalizing t with
  | zero => exact h
  | succ k ih => exact ih (hf t h)

theorem State.keepsControl_enterFrame (h : s.keepsControl t) (locals : Word) (n : Nat) :
    s.keepsControl (t.enterFrame locals n) := by
  unfold State.enterFrame
  split
  · exact h
  · exact State.keepsControl_repeatTimes (f := State.copyFramePointer) (fun _ hu => hu) (n - 1) (t := t.push16 t.regs.bp) h

theorem State.keepsControl_popTo (h : s.keepsControl t) (d : RM16) : s.keepsControl (t.popTo d) := by
  cases d with
  | reg r => cases r <;> exact h
  | mem m => exact h

/-- The interrupt sequence keeps DF and clears IF and TF (60_exceptions.md R340). -/
theorem State.mayClearTraps_interrupt (h : s.keepsControl t) (n : Byte) (ret : Word) :
    s.mayClearTraps (t.interrupt n ret) := by
  obtain ⟨⟨df, -, -⟩, -⟩ := h
  exact ⟨df, .inr rfl, .inr rfl⟩

theorem State.mayClearTraps_of_keepsControl (h : s.keepsControl t) : s.mayClearTraps t := by
  obtain ⟨⟨df, if_, tf⟩, -⟩ := h
  exact ⟨df, .inl if_, .inl tf⟩

/-- A divide error changes status flags and then enters type 0 (60_exceptions.md R344). -/
theorem divideError8_mayClearTraps (s : State) : s.mayClearTraps (divideError8 s) := ⟨rfl, .inr rfl, .inr rfl⟩

theorem divideError16_mayClearTraps (s : State) : s.mayClearTraps (divideError16 s) := ⟨rfl, .inr rfl, .inr rfl⟩

/-! ### The shared forms -/

theorem runAlu_keepsControl {op : AluOp} (h : ∀ w a b, s.keepsControl (op w a b s).2) (f : AluForm) :
    s.keepsControl (runAlu op f s) := by
  cases f with
  | rmReg8 | rmImm8 | rmImm8Alias => exact State.keepsControl_writeRM8 (h _ _ _) _ _
  | rmReg16 | rmImm16 | rmImmSx => exact State.keepsControl_writeRM16 (h _ _ _) _ _
  | regRm8 | al | regRm16 | ax => exact h _ _ _

theorem runAluFlags_keepsControl {op : AluOp} (h : ∀ w a b, s.keepsControl (op w a b s).2) (f : AluForm) :
    s.keepsControl (runAluFlags op f s) := by
  cases f <;> exact h _ _ _

theorem runTest_keepsControl {op : AluOp} (h : ∀ w a b, s.keepsControl (op w a b s).2) (f : TestForm) :
    s.keepsControl (runTest op f s) := by
  cases f <;> exact h _ _ _

theorem runUnary_keepsControl {op : UnaryOp} (h : ∀ w a, s.keepsControl (op w a s).2) (f : UnaryForm) :
    s.keepsControl (runUnary op f s) := by
  cases f with
  | rm8 => exact State.keepsControl_writeRM8 (h _ _) _ _
  | rm16 => exact State.keepsControl_writeRM16 (h _ _) _ _

theorem runInc_keepsControl {op : UnaryOp} (h : ∀ w a, s.keepsControl (op w a s).2) (f : IncForm) :
    s.keepsControl (runInc op f s) := by
  cases f with
  | reg16 => exact h _ _
  | rm8 => exact State.keepsControl_writeRM8 (h _ _) _ _
  | rm16 => exact State.keepsControl_writeRM16 (h _ _) _ _

theorem runShift_keepsControl {op : ShiftOp} (h : ∀ w n a, s.keepsControl (op w n a s).2) (f : ShiftForm) :
    s.keepsControl (runShift op f s) := by
  cases f with
  | rm8 => exact State.keepsControl_writeRM8 (h _ _ _) _ _
  | rm16 => exact State.keepsControl_writeRM16 (h _ _ _) _ _

/-- A shift writes status flags only, whatever its count. -/
theorem shiftOp_keepsControl (turn : (w : Nat) → Turn w → Turn w) (o : (w : Nat) → Nat → Turn w → Bool → Bool)
    (w n : Nat) (a : BitVec w) (s : State) : s.keepsControl (shiftOp turn o w n a s).2 := by
  unfold shiftOp shiftFlags
  dsimp only
  split <;> exact s.keepsControl_refl

/-- One turn of a string instruction writes what its primitive writes, CX and IP. -/
theorem repeated_keepsControl {once : State → State} (c : Bool) (h : s.keepsControl (once s)) :
    s.keepsControl (repeated c once s) := by
  unfold repeated
  cases s.pre.rep with
  | none => exact h
  | some z =>
    dsimp only
    split
    · exact s.keepsControl_refl
    · split <;> exact h

/-! ### The meanings -/

/-- Every meaning but those named keeps the control flags and CS. -/
theorem exec_keepsControl {i : Instr} (h : exec i s = .next t) (hi : Instr.writesControl i = false) :
    s.keepsControl t := by
  have same := s.keepsControl_refl
  cases i
  case adc | add | sbb | sub | and | or | xor => cases h; exact runAlu_keepsControl (fun _ _ _ => same) _
  case cmp => cases h; exact runAluFlags_keepsControl (fun _ _ _ => same) _
  case test => cases h; exact runTest_keepsControl (fun _ _ _ => same) _
  case dec | inc => cases h; exact runInc_keepsControl (fun _ _ => same) _
  case neg | not => cases h; exact runUnary_keepsControl (fun _ _ => same) _
  case rcl | rcr | rol | ror => cases h; exact runShift_keepsControl (fun _ _ _ => same) _
  case shl | sar | shr => cases h; exact runShift_keepsControl (fun w n a => shiftOp_keepsControl _ _ w n a s) _
  case mul f | imul f => cases f <;> cases h <;> exact same
  case das => simp only [exec, execDas] at h; split at h <;> cases h <;> exact same
  case ja | jae | jb | jbe | jcxz | je | jg | jge | jl | jle | jne | jno | jns | jnp | jo | jp | js =>
    cases h; exact State.keepsControl_jumpIf same _ _
  case loop | loope | loopne => cases h; exact State.keepsControl_jumpIf (t := s.countDown) same _ _
  case wait => cases h; split <;> exact same
  case cmps w | ins w | lods w | movs w | outs w | scas w | stos w =>
    cases h; exact repeated_keepsControl _ (by cases w <;> exact same)
  case enter => cases h; exact State.keepsControl_enterFrame same _ _
  case inPort w p | outPort w p => cases w <;> cases h <;> exact same
  case mov f =>
    cases f with
    | rmReg8 | rmImm8 => cases h; exact State.keepsControl_writeRM8 same _ _
    | rmReg16 | rmImm16 => cases h; exact State.keepsControl_writeRM16 same _ _
    | regRm8 | regRm16 | alMem | axMem | memAl | memAx | regImm8 | regImm16 => cases h; exact same
  case movFromSeg => cases h; exact State.keepsControl_writeRM16 same _ _
  case movToSeg sr _ | popSeg sr => cases sr <;> cases h <;> exact same
  case popReg | popRm => cases h; exact State.keepsControl_popTo same _
  case xchg f =>
    cases f with
    | rmReg8 => cases h; exact State.keepsControl_writeRM8 same _ _
    | rmReg16 => cases h; exact State.keepsControl_writeRM16 same _ _
  case cld | std | cli | sti | popf | iret | callFar | callFarInd | jmpFar | jmpFarInd | retFar | retFarPop | int | int3 |
      into | bound | div | idiv | esc => cases hi
  all_goals cases h; exact ⟨⟨rfl, rfl, rfl⟩, rfl⟩

/-- The instructions that can enter an interrupt themselves: the sequence keeps DF and can only clear IF and TF. -/
theorem exec_interrupting_mayClearTraps {i : Instr} (h : exec i s = .next t)
    (hi : Instr.mayInterrupt i = true) : s.mayClearTraps t := by
  have same := s.keepsControl_refl
  cases i
  case int | int3 => cases h; exact State.mayClearTraps_interrupt same _ _
  case into | bound | esc =>
    cases h; split
    · exact State.mayClearTraps_interrupt same _ _
    · exact State.mayClearTraps_of_keepsControl same
  case div f | idiv f =>
    cases f with
    | rm8 =>
      cases h; split
      · exact divideError8_mayClearTraps s
      · exact ⟨rfl, .inl rfl, .inl rfl⟩
    | rm16 =>
      cases h; split
      · exact divideError16_mayClearTraps s
      · exact ⟨rfl, .inl rfl, .inl rfl⟩
  all_goals cases hi

/-- Settles O60, by cases over the instructions: those that can enter an interrupt, the far transfers, the writers of a
flag, and all the others. -/
theorem controlFlagAndCsWriters : Obligations.ControlFlagAndCsWriters := by
  unfold Obligations.ControlFlagAndCsWriters
  intro i s t h
  cases i
  case int | int3 | into | bound | div | idiv | esc =>
    obtain ⟨df, if_, tf⟩ := exec_interrupting_mayClearTraps h rfl
    exact ⟨fun _ => df, fun _ => if_, fun _ => tf, trivial⟩
  case callFar | callFarInd | jmpFar | jmpFarInd | retFar | retFarPop =>
    cases h; exact ⟨fun _ => rfl, fun _ => .inl rfl, fun _ => .inl rfl, rfl, rfl⟩
  case cld | std =>
    cases h; exact ⟨fun n => absurd (by simp) n, fun _ => .inl rfl, fun _ => .inl rfl, .inl ⟨rfl, rfl, rfl⟩⟩
  case cli | sti =>
    cases h; exact ⟨fun _ => rfl, fun n => absurd (by simp) n, fun _ => .inl rfl, .inr ⟨by simp, rfl⟩⟩
  case popf =>
    cases h
    exact ⟨fun n => absurd (by simp) n, fun n => absurd (by simp) n, fun n => absurd (by simp) n, .inr ⟨by simp, rfl⟩⟩
  case iret =>
    exact ⟨fun n => absurd (by simp) n, fun n => absurd (by simp) n, fun n => absurd (by simp) n, trivial⟩
  all_goals
    obtain ⟨⟨df, if_, tf⟩, cs⟩ := exec_keepsControl h rfl
    exact ⟨fun _ => df, fun _ => .inl if_, fun _ => .inl tf, .inl ⟨if_, tf, cs⟩⟩

end Sys2Proof.Machine
end

section
/-! PROOF. The family of 20_memory.md: physical addresses, and where the two bytes of a stored word lie (R51 to R53). -/

namespace Sys2Proof.Machine

/-- The physical address in the wording of R51. -/
theorem phys_eq_sixteen_mul (b o : Word) : phys b o = (16 * b.toNat + o.toNat) % 2 ^ 20 := by
  rw [Nat.mul_comm]; rfl

/-- Below offset FFFFH the high byte lies at the next offset, whatever `WORD_AT_FFFF` is (R52). -/
theorem physHigh_of_ne {b o : Word} (h : o ≠ 0xFFFF) : physHigh b o = phys b (o + 1) := if_neg h

@[simp] theorem Memory.read_write16_phys (m : Memory) (b o v : Word) : (m.write16 b o v).read (phys b o) = v.lo := by
  rw [Memory.read_write16, if_neg (physHigh_ne_phys b o).symm, if_pos rfl]

@[simp] theorem Memory.read_write16_physHigh (m : Memory) (b o v : Word) :
    (m.write16 b o v).read (physHigh b o) = v.hi := by
  rw [Memory.read_write16, if_pos rfl]

/-- Settles O4: the bytes written are at two different addresses (`physHigh_ne_phys`), so neither store hides the other. -/
theorem wordsAreLittleEndian : Obligations.WordsAreLittleEndian := by
  unfold Obligations.WordsAreLittleEndian
  intro m b o v
  exact ⟨phys_eq_sixteen_mul b o, Memory.read16_write16_same m b o v, Memory.read_write16_phys m b o v,
    Memory.read_write16_physHigh m b o v, physHigh_of_ne, fun _ => Memory.read_write16_ne m b o v⟩

end Sys2Proof.Machine
end

section
/-! PROOF. The family of 30_encoding.md: the decoder undoes the encoder and the encoder the decoder; when a step has no
meaning. First what each reader of operands does with its bytes. Then, for the bytes that decode, what it means that a part
of the opcode map reads encodings (`Reads`), row by row of the map; for the bytes that were encoded, the equations of the
readers, constructor by constructor of the instructions. -/

namespace Sys2Proof

/-! ### Fields -/

/-- A statement about the three bits of a ModRM field, number by number. -/
theorem field_cases {motive : BitVec 3 → Prop} (n0 : motive 0) (n1 : motive 1) (n2 : motive 2) (n3 : motive 3)
    (n4 : motive 4) (n5 : motive 5) (n6 : motive 6) (n7 : motive 7) (n : BitVec 3) : motive n := by
  have h : ∀ m : BitVec 3, m = 0 ∨ m = 1 ∨ m = 2 ∨ m = 3 ∨ m = 4 ∨ m = 5 ∨ m = 6 ∨ m = 7 := by decide
  rcases h n with rfl | rfl | rfl | rfl | rfl | rfl | rfl | rfl <;> assumption

/-- A statement about the low half of an opcode byte, column by column of the opcode map. -/
theorem column_cases {motive : BitVec 4 → Prop} (x0 : motive 0x0) (x1 : motive 0x1) (x2 : motive 0x2)
    (x3 : motive 0x3) (x4 : motive 0x4) (x5 : motive 0x5) (x6 : motive 0x6) (x7 : motive 0x7) (x8 : motive 0x8)
    (x9 : motive 0x9) (xA : motive 0xA) (xB : motive 0xB) (xC : motive 0xC) (xD : motive 0xD) (xE : motive 0xE)
    (xF : motive 0xF) (n : BitVec 4) : motive n := by
  have h : ∀ m : BitVec 4, m = 0x0 ∨ m = 0x1 ∨ m = 0x2 ∨ m = 0x3 ∨ m = 0x4 ∨ m = 0x5 ∨ m = 0x6 ∨ m = 0x7 ∨ m = 0x8 ∨
      m = 0x9 ∨ m = 0xA ∨ m = 0xB ∨ m = 0xC ∨ m = 0xD ∨ m = 0xE ∨ m = 0xF := by decide
  rcases h n with rfl | rfl | rfl | rfl | rfl | rfl | rfl | rfl | rfl | rfl | rfl | rfl | rfl | rfl | rfl | rfl <;>
    assumption

@[simp] theorem Reg16.ofNum_num (r : Reg16) : Reg16.ofNum r.num = r := by cases r <;> rfl

@[simp] theorem Reg16.num_ofNum (n : BitVec 3) : (Reg16.ofNum n).num = n := by cases n using field_cases <;> rfl

@[simp] theorem Reg8.ofNum_num (r : Reg8) : Reg8.ofNum r.num = r := by cases r <;> rfl

@[simp] theorem Reg8.num_ofNum (n : BitVec 3) : (Reg8.ofNum n).num = n := by cases n using field_cases <;> rfl

@[simp] theorem Base.ofNum_num (b : Base) : Base.ofNum b.num = b := by cases b <;> rfl

@[simp] theorem Base.num_ofNum (n : BitVec 3) : (Base.ofNum n).num = n := by cases n using field_cases <;> rfl

@[simp] theorem SegReg.ofNum_num (r : SegReg) : SegReg.ofNum r.num = some r := by cases r <;> rfl

theorem SegReg.num_of_ofNum {n : BitVec 3} {r : SegReg} (h : SegReg.ofNum n = some r) : r.num = n := by
  cases n using field_cases <;> cases h <;> rfl

/-- `r/m` = 110 is BP: the number that with `mod` = 00 is the direct address (30_encoding.md R85). -/
theorem Base.num_eq_six {b : Base} : b.num = 6 ↔ b = .bp := by cases b <;> decide

/-! ### Operands before their width is known -/

theorem MemOp.indexed_wellFormed (b : Base) (d : Disp) :
    (MemOp.indexed b d).wellFormed = true ↔ ¬ (b = .bp ∧ d = .none) := by
  cases b <;> cases d <;> simp [MemOp.wellFormed]

/-- The operands that `mod` and `r/m` can name. -/
def RawRM.wellFormed : RawRM → Bool
  | .reg _ => true
  | .mem m => m.wellFormed

@[simp] theorem RawRM.as8_raw (rm : RM8) : rm.raw.as8 = rm := by cases rm <;> simp [RM8.raw, RawRM.as8]

@[simp] theorem RawRM.raw_as8 (x : RawRM) : x.as8.raw = x := by cases x <;> simp [RM8.raw, RawRM.as8]

@[simp] theorem RawRM.as16_raw (rm : RM16) : rm.raw.as16 = rm := by cases rm <;> simp [RM16.raw, RawRM.as16]

@[simp] theorem RawRM.raw_as16 (x : RawRM) : x.as16.raw = x := by cases x <;> simp [RM16.raw, RawRM.as16]

@[simp] theorem RawRM.as8_wellFormed (x : RawRM) : x.as8.wellFormed = x.wellFormed := by cases x <;> rfl

@[simp] theorem RawRM.as16_wellFormed (x : RawRM) : x.as16.wellFormed = x.wellFormed := by cases x <;> rfl

@[simp] theorem RM8.raw_wellFormed (rm : RM8) : rm.raw.wellFormed = rm.wellFormed := by cases rm <;> rfl

@[simp] theorem RM16.raw_wellFormed (rm : RM16) : rm.raw.wellFormed = rm.wellFormed := by cases rm <;> rfl

/-! ### Reading bytes and words -/

@[simp] theorem takeByte_cons (b : Byte) (t : Bytes) : takeByte (b :: t) = .ok (b, t) := rfl

@[simp] theorem takeWord_wordBytes (w : Word) (t : Bytes) : takeWord (wordBytes w ++ t) = .ok (w, t) := by
  simp [wordBytes, takeWord]

/-- Bytes begin with a word, or there are too few of them. -/
theorem takeWord_cases (t : Bytes) :
    (∃ w r, t = wordBytes w ++ r) ∨ takeWord t = .error .truncated ∧ t.length < 2 := by
  match t with
  | [] | [_] => exact .inr ⟨rfl, by simp⟩
  | lo :: hi :: r => exact .inl ⟨Byte.pair hi lo, r, by simp [wordBytes]⟩

@[simp] theorem withWord_wordBytes (w : Word) (t : Bytes) (k : Word → Instr) :
    withWord (wordBytes w ++ t) k = .ok (k w, t) := by
  simp [withWord]

/-! ### The ModRM byte -/

@[simp] theorem modrmByte_mod (m : BitVec 2) (reg rm : BitVec 3) : (modrmByte m reg rm).extractLsb' 6 2 = m := by
  revert m reg rm; decide

@[simp] theorem modrmByte_reg (m : BitVec 2) (reg rm : BitVec 3) : (modrmByte m reg rm).extractLsb' 3 3 = reg := by
  revert m reg rm; decide

@[simp] theorem modrmByte_rm (m : BitVec 2) (reg rm : BitVec 3) : (modrmByte m reg rm).extractLsb' 0 3 = rm := by
  revert m reg rm; decide

/-- Every byte is a ModRM byte. -/
theorem exists_modrmByte (b : Byte) : ∃ m reg rm, b = modrmByte m reg rm :=
  ⟨b.extractLsb' 6 2, b.extractLsb' 3 3, b.extractLsb' 0 3, by revert b; decide⟩

/-- The operand of `mod` = 11. -/
theorem takeModRM_register (reg rm : BitVec 3) (t : Bytes) :
    takeModRM (modrmByte 3 reg rm :: t) = .ok ((reg, .reg rm), t) := by
  simp [takeModRM]


theorem takeMemOp_direct (o : Word) (t : Bytes) : takeMemOp 0 6 (wordBytes o ++ t) = .ok (.direct o, t) := by
  simp [takeMemOp]

theorem takeMemOp_base {b : Base} (h : b ≠ .bp) (t : Bytes) : takeMemOp 0 b.num t = .ok (.indexed b .none, t) := by
  have hn : b.num ≠ 6 := fun e => h (Base.num_eq_six.mp e)
  exact (if_neg hn).trans (by rw [Base.ofNum_num])

theorem takeMemOp_disp8 (b : Base) (d : Byte) (t : Bytes) :
    takeMemOp 1 b.num (d :: t) = .ok (.indexed b (.d8 d), t) := by
  simp [takeMemOp]

theorem takeMemOp_disp16 (b : Base) (d : Word) (t : Bytes) :
    takeMemOp 2 b.num (wordBytes d ++ t) = .ok (.indexed b (.d16 d), t) := by
  simp [takeMemOp]

/-- The operand of `mod` = 00, 01 or 10 is the memory operand. -/
theorem takeModRM_memory {m : BitVec 2} (hm : m ≠ 3) (reg : BitVec 3) {rm : BitVec 3} {t r : Bytes} {o : MemOp}
    (h : takeMemOp m rm t = .ok (o, r)) : takeModRM (modrmByte m reg rm :: t) = .ok ((reg, .mem o), r) := by
  simp only [takeModRM, modrmByte_mod, modrmByte_reg, modrmByte_rm, if_neg hm, h]

theorem takeModRM_memory_error {m : BitVec 2} (hm : m ≠ 3) (reg : BitVec 3) {rm : BitVec 3} {t : Bytes}
    {e : DecodeError} (h : takeMemOp m rm t = .error e) : takeModRM (modrmByte m reg rm :: t) = .error e := by
  simp only [takeModRM, modrmByte_mod, modrmByte_reg, modrmByte_rm, if_neg hm, h]

/-- A ModRM byte with its displacement reads back as the operand it was made from (30_encoding.md R85, R86). -/
theorem takeModRM_encodeRM (reg : BitVec 3) {x : RawRM} (hx : x.wellFormed = true) (t : Bytes) :
    takeModRM (encodeRM reg x ++ t) = .ok ((reg, x), t) := by
  cases x with
  | reg n => exact takeModRM_register reg n t
  | mem o =>
    cases o with
    | direct o => exact takeModRM_memory (by decide) reg (takeMemOp_direct o t)
    | indexed b d =>
      cases d with
      | none =>
        have hb : b ≠ .bp := fun e => (MemOp.indexed_wellFormed b .none).mp hx ⟨e, rfl⟩
        exact takeModRM_memory (by decide) reg (takeMemOp_base hb t)
      | d8 d => exact takeModRM_memory (by decide) reg (takeMemOp_disp8 b d t)
      | d16 d => exact takeModRM_memory (by decide) reg (takeMemOp_disp16 b d t)

/-- The bytes begin with the encoding of an operand, `reg` field and all. -/
def beginsWithRM (t : Bytes) : Prop := ∃ reg x r, RawRM.wellFormed x = true ∧ t = encodeRM reg x ++ r

/-- The bytes after a ModRM byte for memory hold its displacement, or there are too few of them. -/
theorem takeMemOp_cases {m : BitVec 2} (hm : m ≠ 3) (reg rm : BitVec 3) (t : Bytes) :
    beginsWithRM (modrmByte m reg rm :: t) ∨ takeMemOp m rm t = .error .truncated ∧ t.length < 2 := by
  have cases_mod : m = 0 ∨ m = 1 ∨ m = 2 := by revert m; decide
  rcases cases_mod with rfl | rfl | rfl
  · by_cases h6 : rm = 6
    · subst h6
      rcases takeWord_cases t with ⟨o, r, rfl⟩ | ⟨ht, hl⟩
      · exact .inl ⟨reg, .mem (.direct o), r, rfl, rfl⟩
      · exact .inr ⟨by simp [takeMemOp, ht], hl⟩
    · refine .inl ⟨reg, .mem (.indexed (Base.ofNum rm) .none), t, (MemOp.indexed_wellFormed _ _).mpr ?_,
        by simp [encodeRM]⟩
      rintro ⟨hb, -⟩
      exact h6 (by rw [← Base.num_ofNum rm, hb]; rfl)
  · cases t with
    | nil => exact .inr ⟨rfl, by simp⟩
    | cons d r =>
      exact .inl ⟨reg, .mem (.indexed (Base.ofNum rm) (.d8 d)), r, (MemOp.indexed_wellFormed _ _).mpr (by simp),
        by simp [encodeRM]⟩
  · rcases takeWord_cases t with ⟨d, r, rfl⟩ | ⟨ht, hl⟩
    · exact .inl ⟨reg, .mem (.indexed (Base.ofNum rm) (.d16 d)), r, (MemOp.indexed_wellFormed _ _).mpr (by simp),
        by simp [encodeRM]⟩
    · exact .inr ⟨by simp [takeMemOp, ht], hl⟩

/-- Bytes begin with an operand, or there are too few of them. -/
theorem takeModRM_cases (t : Bytes) : beginsWithRM t ∨ takeModRM t = .error .truncated ∧ t.length < 3 := by
  cases t with
  | nil => exact .inr ⟨rfl, by simp⟩
  | cons b t =>
    obtain ⟨m, reg, rm, rfl⟩ := exists_modrmByte b
    by_cases hm : m = 3
    · subst hm
      exact .inl ⟨reg, .reg rm, t, rfl, rfl⟩
    · rcases takeMemOp_cases hm reg rm t with h | ⟨ht, hl⟩
      · exact .inl h
      · exact .inr ⟨takeModRM_memory_error hm reg ht, by simp only [List.length_cons]; omega⟩

/-! ### Reading operands, then continuing -/

theorem withModRM_encodeRM (reg : BitVec 3) {x : RawRM} (hx : x.wellFormed = true) (t : Bytes)
    (k : BitVec 3 → RawRM → Bytes → Decoded Instr) : withModRM (encodeRM reg x ++ t) k = k reg x t := by
  simp only [withModRM, takeModRM_encodeRM reg hx]

/-! ### The groups of the opcode map -/

/-- The operation of an ALU opcode stands in its bits 5 to 3, so its base opcode has the shape of a ModRM byte. -/
theorem encode_aluInstr (n : BitVec 3) (f : AluForm) : encode (aluInstr n f) = encodeAlu (modrmByte 0 n 0) n f := by
  cases n using field_cases <;> rfl

@[simp] theorem aluInstr_wellFormed (n : BitVec 3) (f : AluForm) : (aluInstr n f).wellFormed = f.wellFormed := by
  cases n using field_cases <;> rfl

theorem encode_of_shiftInstr {n : BitVec 3} {f : ShiftForm} {i : Instr} (h : shiftInstr n f = some i) :
    i.wellFormed = f.wellFormed ∧ encode i = encodeShift n f := by
  cases n using field_cases <;> cases h <;> exact ⟨rfl, rfl⟩

theorem encode_of_unaryInstr {n : BitVec 3} {f : UnaryForm} {i : Instr} (h : unaryInstr n f = some i) :
    i.wellFormed = f.wellFormed ∧ encode i = encodeUnary n f := by
  cases n using field_cases <;> cases h <;> exact ⟨rfl, rfl⟩

theorem encode_of_group4 {n : BitVec 3} {x : RawRM} {i : Instr} (h : group4 n x = some i) :
    i.wellFormed = x.wellFormed ∧ encode i = 0xFE :: encodeRM n x := by
  cases n using field_cases <;> cases h <;> exact ⟨x.as8_wellFormed, congrArg _ (congrArg _ x.raw_as8)⟩

theorem encode_of_group5 {op : Byte} {n : BitVec 3} {x : RawRM} {i : Instr} (h : group5 op n x = .ok i) :
    i.wellFormed = x.wellFormed ∧ encode i = 0xFF :: encodeRM n x := by
  cases n using field_cases with
  | n0 | n1 | n2 | n4 | n6 => cases h; exact ⟨x.as16_wellFormed, congrArg _ (congrArg _ x.raw_as16)⟩
  | n3 | n5 => cases x <;> cases h; exact ⟨rfl, rfl⟩
  | n7 => cases h

theorem group5_error {op : Byte} {n : BitVec 3} {x : RawRM} {e : DecodeError} (h : group5 op n x = .error e) :
    e ≠ .truncated := by
  rintro rfl
  cases n using field_cases <;> cases x <;> cases h

/-! ### What reads the encodings -/

/-- Behind the bytes `pre`, `d` reads the rest of an encoding: what it answers is a well-formed instruction that encodes to
`pre` and the bytes taken, and it finds too few bytes only where fewer than `maxInstrBytes` are there. -/
structure Reads (pre : Bytes) (d : Bytes → Decoded Instr) : Prop where
  sound : ∀ t i rest, d t = .ok (i, rest) → i.wellFormed = true ∧ pre ++ t = encode i ++ rest
  enough : ∀ t, d t = .error .truncated → (pre ++ t).length < maxInstrBytes

/-- `bytes` is the encoding of the well-formed instruction `i`. -/
def Instr.encodedAs (i : Instr) (bytes : Bytes) : Prop := i.wellFormed = true ∧ encode i = bytes

namespace Reads

variable {pre : Bytes} {op : Byte}

theorem ok {i : Instr} (hi : i.encodedAs pre) : Reads pre fun t => .ok (i, t) where
  sound t j rest h := by cases h; exact ⟨hi.1, by rw [hi.2]⟩
  enough t h := by cases h

theorem error {e : DecodeError} (he : e ≠ .truncated) : Reads pre fun _ => .error e where
  sound t i rest h := by cases h
  enough t h := by cases h; exact absurd rfl he

/-- A byte, then what `k` reads behind it. That `pre` is short, behind an opcode alone, is seen by counting; behind an
operand `Reads.withModRM` says it. -/
theorem byte {d : Bytes → Decoded Instr} {k : Byte → Bytes → Decoded Instr} (h : ∀ b, Reads (pre ++ [b]) (k b))
    (cons : ∀ b t, d (b :: t) = k b t) (nil : d [] = .error .truncated)
    (short : pre.length ≤ 4 := by exact Nat.le_of_ble_eq_true rfl) : Reads pre d where
  sound t i rest e := by
    cases t with
    | nil => rw [nil] at e; cases e
    | cons b t => rw [cons] at e; simpa using (h b).sound t i rest e
  enough t e := by
    cases t with
    | nil => simp only [List.append_nil, maxInstrBytes]; omega
    | cons b t => rw [cons] at e; simpa using (h b).enough t e

/-- A word, then what `k` reads behind it. -/
theorem word {d : Bytes → Decoded Instr} {k : Word → Bytes → Decoded Instr}
    (h : ∀ w, Reads (pre ++ wordBytes w) (k w)) (full : ∀ w t, d (wordBytes w ++ t) = k w t)
    (few : ∀ t, takeWord t = .error .truncated → d t = .error .truncated)
    (short : pre.length ≤ 4 := by exact Nat.le_of_ble_eq_true rfl) : Reads pre d where
  sound t i rest e := by
    rcases takeWord_cases t with ⟨w, r, rfl⟩ | ⟨ht, -⟩
    · rw [full] at e; simpa using (h w).sound r i rest e
    · rw [few t ht] at e; cases e
  enough t e := by
    rcases takeWord_cases t with ⟨w, r, rfl⟩ | ⟨-, hl⟩
    · rw [full] at e; simpa using (h w).enough r e
    · simp only [List.length_append, maxInstrBytes]; omega

/-- An operand, then what `k` reads behind it. -/
theorem withModRM {k : BitVec 3 → RawRM → Bytes → Decoded Instr}
    (h : ∀ reg x, x.wellFormed = true → (op :: encodeRM reg x).length ≤ 4 →
      Reads (op :: encodeRM reg x) (k reg x)) : Reads [op] fun t => withModRM t k := by
  have hk : ∀ reg x, x.wellFormed = true → Reads (op :: encodeRM reg x) (k reg x) := fun reg x hx =>
    h reg x hx (Nat.succ_le_succ (Laws.encodeRM_length reg x).2)
  constructor
  case sound =>
    intro t i rest e
    rcases takeModRM_cases t with ⟨reg, x, r, hx, rfl⟩ | ⟨ht, -⟩
    · rw [withModRM_encodeRM reg hx] at e
      exact (hk reg x hx).sound r i rest e
    · simp only [Sys2Proof.withModRM, ht] at e; cases e
  case enough =>
    intro t e
    rcases takeModRM_cases t with ⟨reg, x, r, hx, rfl⟩ | ⟨-, hl⟩
    · rw [withModRM_encodeRM reg hx] at e
      exact (hk reg x hx).enough r e
    · simp only [List.cons_append, List.nil_append, List.length_cons, maxInstrBytes]; omega

theorem withByte {k : Byte → Instr} (h : ∀ b, (k b).encodedAs (pre ++ [b]))
    (short : pre.length ≤ 4 := by exact Nat.le_of_ble_eq_true rfl) : Reads pre fun t => withByte t k :=
  byte (fun b => ok (h b)) (fun _ _ => rfl) rfl short

theorem withWord {k : Word → Instr} (h : ∀ w, (k w).encodedAs (pre ++ wordBytes w))
    (short : pre.length ≤ 4 := by exact Nat.le_of_ble_eq_true rfl) : Reads pre fun t => withWord t k :=
  word (fun w => ok (h w)) (withWord_wordBytes · · k) (fun t ht => by simp only [Sys2Proof.withWord, ht]) short

theorem withRM {k : BitVec 3 → RawRM → Instr}
    (h : ∀ reg x, x.wellFormed = true → (k reg x).encodedAs (op :: encodeRM reg x)) : Reads [op] fun t => withRM t k :=
  withModRM fun reg x hx _ => ok (h reg x hx)

theorem withMem {k : BitVec 3 → MemOp → Instr}
    (h : ∀ reg m, m.wellFormed = true → (k reg m).encodedAs (op :: encodeRM reg (.mem m))) :
    Reads [op] fun t => withMem op t k :=
  withModRM fun reg x hx _ => by
    cases x with
    | reg n => exact error DecodeError.noConfusion
    | mem m => exact ok (h reg m hx)

theorem withGroup {k : BitVec 3 → RawRM → Option Instr}
    (h : ∀ reg x i, x.wellFormed = true → k reg x = some i → i.encodedAs (op :: encodeRM reg x)) :
    Reads [op] fun t => withGroup op t k :=
  withModRM fun reg x hx _ => by
    cases hk : k reg x with
    | none => exact error DecodeError.noConfusion
    | some i => exact ok (h reg x i hx hk)

theorem withSegRM {k : SegReg → RawRM → Except DecodeError Instr}
    (h : ∀ sr x i, x.wellFormed = true → k sr x = .ok i → i.encodedAs (op :: encodeRM sr.num x))
    (he : ∀ sr x e, k sr x = .error e → e ≠ .truncated) : Reads [op] fun t => withSegRM op t k :=
  withModRM fun reg x hx _ => by
    cases hs : SegReg.ofNum reg with
    | none => exact error DecodeError.noConfusion
    | some sr =>
      rw [← SegReg.num_of_ofNum hs]
      dsimp only
      cases hk : k sr x with
      | error e => exact error (he sr x e hk)
      | ok i => exact ok (h sr x i hx hk)

theorem withOnly0 {k : RawRM → Bytes → Decoded Instr}
    (h : ∀ x, x.wellFormed = true → (op :: encodeRM 0 x).length ≤ 4 → Reads (op :: encodeRM 0 x) (k x)) :
    Reads [op] fun t => withOnly0 op t k :=
  withModRM fun reg x hx short => by
    by_cases h0 : reg = 0
    · subst h0; exact h x hx short
    · simp only [if_neg h0]; exact error DecodeError.noConfusion

theorem withGroup1_byte {f : RawRM → Byte → AluForm}
    (hf : ∀ x b, (f x b).wellFormed = x.wellFormed)
    (he : ∀ base ext x b, encodeAlu base ext (f x b) = op :: encodeRM ext x ++ [b]) :
    Reads [op] fun t => withGroup1 t fun rm => immByteForm (f rm) :=
  withModRM fun reg x hx short =>
    byte (fun b => ok ⟨by rw [aluInstr_wellFormed, hf, hx], by rw [encode_aluInstr, he]⟩) (fun _ _ => rfl) rfl short

theorem withGroup1_word {f : RawRM → Word → AluForm}
    (hf : ∀ x w, (f x w).wellFormed = x.wellFormed)
    (he : ∀ base ext x w, encodeAlu base ext (f x w) = op :: encodeRM ext x ++ wordBytes w) :
    Reads [op] fun t => withGroup1 t fun rm => immWordForm (f rm) :=
  withModRM fun reg x hx short =>
    word (fun w => ok ⟨by rw [aluInstr_wellFormed, hf, hx], by rw [encode_aluInstr, he]⟩)
      (fun w t => by simp [immWordForm]) (fun t ht => by simp only [immWordForm, ht]) short

theorem withGroup3 {test : RawRM → Bytes → Decoded Instr} {form : RawRM → UnaryForm}
    (ht : ∀ x, x.wellFormed = true → (op :: encodeRM 0 x).length ≤ 4 → Reads (op :: encodeRM 0 x) (test x))
    (hf : ∀ x, (form x).wellFormed = x.wellFormed)
    (he : ∀ ext x, encodeUnary ext (form x) = op :: encodeRM ext x) : Reads [op] fun t => withGroup3 op t test form :=
  withModRM fun reg x hx short => by
    by_cases h0 : reg = 0
    · subst h0; exact ht x hx short
    · simp only [if_neg h0]
      cases hi : unaryInstr reg (form x) with
      | none => exact error DecodeError.noConfusion
      | some i =>
        obtain ⟨hw, hb⟩ := encode_of_unaryInstr hi
        exact ok ⟨by rw [hw, hf, hx], by rw [hb, he]⟩

theorem withShiftImm {form : RawRM → Count → ShiftForm} (hf : ∀ x c, (form x c).wellFormed = x.wellFormed)
    (he : ∀ ext x n, encodeShift ext (form x (.imm n)) = op :: encodeRM ext x ++ [n]) :
    Reads [op] fun t => withShiftImm op t form :=
  withModRM fun reg x hx short => by
    refine byte (fun n => ?_) (fun _ _ => rfl) rfl short
    dsimp only [takeByte_cons]
    cases hi : shiftInstr reg (form x (.imm n)) with
    | none => exact error DecodeError.noConfusion
    | some i =>
      obtain ⟨hw, hb⟩ := encode_of_shiftInstr hi
      exact ok ⟨by rw [hw, hf, hx], by rw [hb, he]⟩

/-- A shift or rotate without an immediate count. -/
theorem withShift {form : RawRM → ShiftForm} (hf : ∀ x, (form x).wellFormed = x.wellFormed)
    (he : ∀ ext x, encodeShift ext (form x) = op :: encodeRM ext x) :
    Reads [op] fun t => Sys2Proof.withGroup op t fun reg rm => shiftInstr reg (form rm) :=
  withGroup fun reg x i hx hi => by
    obtain ⟨hw, hb⟩ := encode_of_shiftInstr hi
    exact ⟨by rw [hw, hf, hx], by rw [hb, he]⟩

theorem withDecimalBase {i : Instr} (hi : i.encodedAs [op, Config.decimalBase]) :
    Reads [op] fun t => withDecimalBase op t i := by
  refine byte (k := fun b t => if b = Config.decimalBase then .ok (i, t) else .error (.decimalBase op b)) (fun b => ?_)
    (fun _ _ => rfl) rfl
  by_cases hb : b = Config.decimalBase
  · subst hb; simp only [if_pos]; exact ok hi
  · simp only [if_neg hb]; exact error DecodeError.noConfusion

end Reads

/-! ### The opcode map, 30_encoding.md R90 -/

/-- A register number in an opcode byte stands where `r/m` stands in a ModRM byte. -/
theorem opReg_modrmByte (m : BitVec 2) (n r : BitVec 3) : opReg (modrmByte m n 0) r = modrmByte m n r := by
  revert m n r; decide

theorem decode9_callFar (o : Word) (t : Bytes) : decode9 0x9A (wordBytes o ++ t) = withWord t (.callFar o) := by
  simp [decode9]

theorem decodeE_jmpFar (o : Word) (t : Bytes) : decodeE 0xEA (wordBytes o ++ t) = withWord t (.jmpFar o) := by
  simp [decodeE]

theorem decodeC_enter (n : Word) (t : Bytes) : decodeC 0xC8 (wordBytes n ++ t) = withByte t (.enter n) := by
  simp [decodeC]

/-- The forms of an ALU operation that have an opcode of their own. -/
theorem aluInstr_encodedAs (n c : BitVec 3) {f : AluForm} {operand : Bytes} (hf : f.wellFormed = true)
    (he : encodeAlu (modrmByte 0 n 0) n f = opReg (modrmByte 0 n 0) c :: operand) :
    (aluInstr n f).encodedAs (modrmByte 0 n c :: operand) :=
  ⟨by rw [aluInstr_wellFormed, hf], by rw [encode_aluInstr, he, opReg_modrmByte]⟩

theorem decode0to3_reads {op : Byte} (h : op.extractLsb' 6 2 = 0) : Reads [op] (decode0to3 op) := by
  obtain ⟨m, n, c, rfl⟩ := exists_modrmByte op
  rw [modrmByte_mod] at h
  subst h
  unfold decode0to3
  simp only [modrmByte_reg, modrmByte_rm]
  cases c using field_cases with
  | n0 | n2 =>
    exact .withRM fun reg x hx => aluInstr_encodedAs n _ (x.as8_wellFormed.trans hx) (by simp [encodeAlu, opReg])
  | n1 | n3 =>
    exact .withRM fun reg x hx => aluInstr_encodedAs n _ (x.as16_wellFormed.trans hx) (by simp [encodeAlu, opReg])
  | n4 => exact .withByte fun _ => aluInstr_encodedAs n 4 rfl rfl
  | n5 => exact .withWord fun _ => aluInstr_encodedAs n 5 rfl rfl
  | n6 => cases n using field_cases <;> exact .ok ⟨rfl, rfl⟩
  | n7 =>
    cases n using field_cases with
    | n1 => exact .error DecodeError.noConfusion
    | n0 | n2 | n3 | n4 | n5 | n6 | n7 => exact .ok ⟨rfl, rfl⟩

theorem decode4_reads (lo : BitVec 4) : Reads [0x4#4 ++ lo] (decode4to5 (0x4#4 ++ lo)) := by
  cases lo using column_cases <;> exact .ok ⟨rfl, rfl⟩

theorem decode5_reads (lo : BitVec 4) : Reads [0x5#4 ++ lo] (decode4to5 (0x5#4 ++ lo)) := by
  cases lo using column_cases <;> exact .ok ⟨rfl, rfl⟩

theorem decode6_reads (lo : BitVec 4) : Reads [0x6#4 ++ lo] (decode6 (0x6#4 ++ lo)) := by
  cases lo using column_cases with
  | x0 | x1 | xC | xD | xE | xF => exact .ok ⟨rfl, rfl⟩
  | x2 => exact .withMem fun reg m hm => ⟨hm, by simp [encode]⟩
  | x8 => exact .withWord fun _ => ⟨rfl, rfl⟩
  | x9 =>
    show Reads [0x69] fun t => withModRM t fun reg rm t => withWord t (.imulImm16 (Reg16.ofNum reg) rm.as16)
    refine .withModRM fun reg x hx short => ?_
    exact .withWord (fun _ => ⟨x.as16_wellFormed.trans hx, by simp [encode]⟩) short
  | xA => exact .withByte fun _ => ⟨rfl, rfl⟩
  | xB =>
    show Reads [0x6B] fun t => withModRM t fun reg rm t => withByte t (.imulImm8 (Reg16.ofNum reg) rm.as16)
    refine .withModRM fun reg x hx short => ?_
    exact .withByte (fun _ => ⟨x.as16_wellFormed.trans hx, by simp [encode]⟩) short
  | x3 | x4 | x5 | x6 | x7 => exact .error DecodeError.noConfusion

theorem decode7_reads (lo : BitVec 4) : Reads [0x7#4 ++ lo] fun t => withByte t (jccInstr lo.toNat) := by
  cases lo using column_cases <;> exact .withByte fun _ => ⟨rfl, rfl⟩

theorem decode8_reads (lo : BitVec 4) : Reads [0x8#4 ++ lo] (decode8 (0x8#4 ++ lo)) := by
  cases lo using column_cases with
  | x0 | x2 => exact .withGroup1_byte (fun x _ => x.as8_wellFormed) fun _ _ x _ => by simp [encodeAlu]
  | x1 => exact .withGroup1_word (fun x _ => x.as16_wellFormed) fun _ _ x _ => by simp [encodeAlu]
  | x3 => exact .withGroup1_byte (fun x _ => x.as16_wellFormed) fun _ _ x _ => by simp [encodeAlu]
  | x4 | x6 | x8 | xA =>
    exact .withRM fun reg x hx => ⟨x.as8_wellFormed.trans hx, by simp [encode, encodeTest, encodeXchg, encodeMov]⟩
  | x5 | x7 | x9 | xB =>
    exact .withRM fun reg x hx => ⟨x.as16_wellFormed.trans hx, by simp [encode, encodeTest, encodeXchg, encodeMov]⟩
  | xC =>
    show Reads [0x8C] fun t => withSegRM 0x8C t fun sr rm => .ok (.movFromSeg rm.as16 sr)
    refine .withSegRM (fun sr x i hx hi => ?_) fun sr x e he => ?_
    · cases hi
      exact ⟨x.as16_wellFormed.trans hx, by simp [encode]⟩
    · cases he
  | xD => exact .withMem fun reg m hm => ⟨hm, by simp [encode]⟩
  | xE =>
    refine .withSegRM (fun sr x i hx hi => ?_) fun sr x e he => ?_
    · split at hi
      · cases hi
      next hs => cases hi; exact ⟨by simp [Instr.wellFormed, hs, hx], by simp [encode]⟩
    · split at he <;> cases he
      exact DecodeError.noConfusion
  | xF => exact .withOnly0 fun x hx _ => .ok ⟨x.as16_wellFormed.trans hx, by simp [encode]⟩

theorem decode9_reads (lo : BitVec 4) : Reads [0x9#4 ++ lo] (decode9 (0x9#4 ++ lo)) := by
  cases lo using column_cases with
  | xA =>
    exact .word (fun o => .withWord fun s => ⟨rfl, rfl⟩) decode9_callFar fun t ht => by simp [decode9, ht]
  | _ => exact .ok ⟨rfl, rfl⟩

theorem decodeA_reads (lo : BitVec 4) : Reads [0xA#4 ++ lo] (decodeA (0xA#4 ++ lo)) := by
  cases lo using column_cases with
  | x0 | x1 | x2 | x3 | x9 => exact .withWord fun _ => ⟨rfl, rfl⟩
  | x8 => exact .withByte fun _ => ⟨rfl, rfl⟩
  | x4 | x5 | x6 | x7 | xA | xB | xC | xD | xE | xF => exact .ok ⟨rfl, rfl⟩

theorem decodeB_reads (lo : BitVec 4) : Reads [0xB#4 ++ lo] (decodeB (0xB#4 ++ lo)) := by
  cases lo using column_cases with
  | x0 | x1 | x2 | x3 | x4 | x5 | x6 | x7 => exact .withByte fun _ => ⟨rfl, rfl⟩
  | x8 | x9 | xA | xB | xC | xD | xE | xF => exact .withWord fun _ => ⟨rfl, rfl⟩

theorem decodeC_reads (lo : BitVec 4) : Reads [0xC#4 ++ lo] (decodeC (0xC#4 ++ lo)) := by
  cases lo using column_cases with
  | x0 => exact .withShiftImm (fun x _ => x.as8_wellFormed) fun _ x _ => by simp [shift8, encodeShift]
  | x1 => exact .withShiftImm (fun x _ => x.as16_wellFormed) fun _ x _ => by simp [shift16, encodeShift]
  | x2 | xA => exact .withWord fun _ => ⟨rfl, rfl⟩
  | x4 | x5 => exact .withMem fun reg m hm => ⟨hm, by simp [encode]⟩
  | x6 =>
    exact .withOnly0 fun x hx short =>
      .withByte (fun _ => ⟨x.as8_wellFormed.trans hx, by simp [encode, encodeMov]⟩) short
  | x7 =>
    exact .withOnly0 fun x hx short =>
      .withWord (fun _ => ⟨x.as16_wellFormed.trans hx, by simp [encode, encodeMov]⟩) short
  | x8 => exact .word (fun n => .withByte fun l => ⟨rfl, rfl⟩) decodeC_enter fun t ht => by simp [decodeC, ht]
  | xD => exact .withByte fun _ => ⟨rfl, rfl⟩
  | x3 | x9 | xB | xC | xE | xF => exact .ok ⟨rfl, rfl⟩

/-- ESC keeps its opcode in bits 2 to 0 of the opcode byte and in the `reg` field. -/
theorem encode_esc (c reg : BitVec 3) (rm : RM16) :
    encode (.esc (c ++ reg) rm) = opReg 0xD8 c :: encodeRM reg rm.raw := by
  have hc : (c ++ reg).extractLsb' 3 3 = c := by revert c reg; decide
  have hr : (c ++ reg).extractLsb' 0 3 = reg := by revert c reg; decide
  rw [encode, hc, hr]

theorem decodeD_reads (lo : BitVec 4) : Reads [0xD#4 ++ lo] (decodeD (0xD#4 ++ lo)) := by
  cases lo using column_cases with
  | x0 | x2 => exact .withShift (fun x => x.as8_wellFormed) fun _ x => by simp [shift8, encodeShift]
  | x1 | x3 => exact .withShift (fun x => x.as16_wellFormed) fun _ x => by simp [shift16, encodeShift]
  | x4 | x5 => exact .withDecimalBase ⟨rfl, rfl⟩
  | x6 => exact .error DecodeError.noConfusion
  | x7 => exact .ok ⟨rfl, rfl⟩
  | x8 | x9 | xA | xB | xC | xD | xE | xF =>
    exact .withRM fun reg x hx => ⟨x.as16_wellFormed.trans hx, by rw [encode_esc, RawRM.raw_as16]; rfl⟩

theorem decodeE_reads (lo : BitVec 4) : Reads [0xE#4 ++ lo] (decodeE (0xE#4 ++ lo)) := by
  cases lo using column_cases with
  | x0 | x1 | x2 | x3 | x4 | x5 | x6 | x7 | xB => exact .withByte fun _ => ⟨rfl, rfl⟩
  | x8 | x9 => exact .withWord fun _ => ⟨rfl, rfl⟩
  | xA => exact .word (fun o => .withWord fun s => ⟨rfl, rfl⟩) decodeE_jmpFar fun t ht => by simp [decodeE, ht]
  | xC | xD | xE | xF => exact .ok ⟨rfl, rfl⟩

theorem decodeF_reads (lo : BitVec 4) : Reads [0xF#4 ++ lo] (decodeF (0xF#4 ++ lo)) := by
  cases lo using column_cases with
  | x1 => exact .error DecodeError.noConfusion
  | x6 =>
    exact .withGroup3
      (fun x hx short => .withByte (fun _ => ⟨x.as8_wellFormed.trans hx, by simp [encode, encodeTest]⟩) short)
      (fun x => x.as8_wellFormed) fun _ x => by simp [encodeUnary]
  | x7 =>
    exact .withGroup3
      (fun x hx short => .withWord (fun _ => ⟨x.as16_wellFormed.trans hx, by simp [encode, encodeTest]⟩) short)
      (fun x => x.as16_wellFormed) fun _ x => by simp [encodeUnary]
  | xE =>
    refine .withGroup fun reg x i hx hi => ?_
    obtain ⟨hw, he⟩ := encode_of_group4 hi
    exact ⟨hw.trans hx, he⟩
  | xF =>
    unfold decodeF
    refine .withModRM fun reg x hx _ => ?_
    generalize hg : group5 _ reg x = answer
    cases answer with
    | error e => exact .error (group5_error hg)
    | ok i =>
      obtain ⟨hw, he⟩ := encode_of_group5 hg
      exact .ok ⟨hw.trans hx, he⟩
  | x0 | x2 | x3 | x4 | x5 | x8 | x9 | xA | xB | xC | xD => exact .ok ⟨rfl, rfl⟩

/-- Every opcode byte reads the encodings that begin with it. -/
theorem decodeOp_reads (op : Byte) : Reads [op] (decodeOp op) := by
  obtain ⟨hi, lo, rfl⟩ : ∃ hi lo : BitVec 4, op = hi ++ lo :=
    ⟨op.extractLsb' 4 4, op.extractLsb' 0 4, by revert op; decide⟩
  have row : (hi ++ lo).extractLsb' 4 4 = hi := by revert hi lo; decide
  have column : (hi ++ lo).extractLsb' 0 4 = lo := by revert hi lo; decide
  unfold decodeOp
  rw [row, column]
  cases hi using column_cases with
  | x0 | x1 | x2 | x3 => exact decode0to3_reads (by revert lo; decide)
  | x4 => exact decode4_reads lo
  | x5 => exact decode5_reads lo
  | x6 => exact decode6_reads lo
  | x7 => exact decode7_reads lo
  | x8 => exact decode8_reads lo
  | x9 => exact decode9_reads lo
  | xA => exact decodeA_reads lo
  | xB => exact decodeB_reads lo
  | xC => exact decodeC_reads lo
  | xD => exact decodeD_reads lo
  | xE => exact decodeE_reads lo
  | xF => exact decodeF_reads lo

/-- Bytes that end inside the instruction are fewer than the longest instruction has. -/
theorem length_lt_of_decode_truncated {bytes : Bytes} (h : decode bytes = .error .truncated) :
    bytes.length < maxInstrBytes := by
  cases bytes with
  | nil => decide
  | cons op t => exact (decodeOp_reads op).enough t h

/-! ### Decoding what was encoded -/

section
variable (reg : BitVec 3) {x : RawRM} (hx : x.wellFormed = true) (t : Bytes) (op : Byte)
include hx

theorem withRM_encodeRM (k : BitVec 3 → RawRM → Instr) : withRM (encodeRM reg x ++ t) k = .ok (k reg x, t) :=
  withModRM_encodeRM reg hx t _

theorem withGroup_encodeRM {k : BitVec 3 → RawRM → Option Instr} {i : Instr} (hk : k reg x = some i) :
    withGroup op (encodeRM reg x ++ t) k = .ok (i, t) := by
  simp only [withGroup, withModRM_encodeRM reg hx, hk]

theorem withOnly0_encodeRM (k : RawRM → Bytes → Decoded Instr) : withOnly0 op (encodeRM 0#3 x ++ t) k = k x t := by
  simp [withOnly0, withModRM_encodeRM, hx]

theorem withGroup1_immByte (f : RawRM → Byte → AluForm) (b : Byte) :
    withGroup1 (encodeRM reg x ++ b :: t) (fun rm => immByteForm (f rm)) = .ok (aluInstr reg (f x b), t) := by
  simp only [withGroup1, withModRM_encodeRM reg hx, immByteForm, takeByte_cons]

theorem withGroup1_immWord (f : RawRM → Word → AluForm) (w : Word) :
    withGroup1 (encodeRM reg x ++ (wordBytes w ++ t)) (fun rm => immWordForm (f rm)) =
      .ok (aluInstr reg (f x w), t) := by
  simp only [withGroup1, withModRM_encodeRM reg hx, immWordForm, takeWord_wordBytes]

theorem withGroup3_test (test : RawRM → Bytes → Decoded Instr) (form : RawRM → UnaryForm) :
    withGroup3 op (encodeRM 0#3 x ++ t) test form = test x t := by
  simp [withGroup3, withModRM_encodeRM, hx]

theorem withGroup3_unary (test : RawRM → Bytes → Decoded Instr) {form : RawRM → UnaryForm} {i : Instr}
    (hi : unaryInstr reg (form x) = some i) : withGroup3 op (encodeRM reg x ++ t) test form = .ok (i, t) := by
  have h0 : reg ≠ 0 := by rintro rfl; cases hi
  simp only [withGroup3, withModRM_encodeRM reg hx, if_neg h0, hi]

theorem withShiftImm_encodeRM {form : RawRM → Count → ShiftForm} {n : Byte} {i : Instr}
    (hi : shiftInstr reg (form x (.imm n)) = some i) :
    withShiftImm op (encodeRM reg x ++ n :: t) form = .ok (i, t) := by
  simp only [withShiftImm, withModRM_encodeRM reg hx, takeByte_cons, hi]

end

theorem withMem_encodeRM (op : Byte) (reg : BitVec 3) {m : MemOp} (hm : m.wellFormed = true) (t : Bytes)
    (k : BitVec 3 → MemOp → Instr) : withMem op (encodeRM reg (.mem m) ++ t) k = .ok (k reg m, t) :=
  withModRM_encodeRM (x := .mem m) reg hm t _

theorem decode_encodeTest {f : TestForm} (hf : f.wellFormed = true) (rest : Bytes) :
    decode (encodeTest f ++ rest) = .ok (.test f, rest) := by
  cases f with
  | rmReg8 rm r | rmReg16 rm r =>
    replace hf : rm.wellFormed = true := hf
    simp [encodeTest, decode, decodeOp, decode8, withRM_encodeRM, hf]
  | al imm => rfl
  | ax imm => simp [encodeTest, decode, decodeOp, decodeA]
  | rmImm8 rm imm =>
    replace hf : rm.wellFormed = true := hf
    simp [encodeTest, decode, decodeOp, decodeF, withGroup3_test, withByte, hf]
  | rmImm16 rm imm =>
    replace hf : rm.wellFormed = true := hf
    simp [encodeTest, decode, decodeOp, decodeF, withGroup3_test, hf]

theorem decode_encodeUnary {n : BitVec 3} {f : UnaryForm} (hf : f.wellFormed = true) {i : Instr}
    (hi : unaryInstr n f = some i) (rest : Bytes) : decode (encodeUnary n f ++ rest) = .ok (i, rest) := by
  cases f with
  | rm8 rm | rm16 rm =>
    replace hf : rm.wellFormed = true := hf
    simp [encodeUnary, decode, decodeOp, decodeF, withGroup3_unary, hf, hi]

theorem decode_encodeShift {n : BitVec 3} {f : ShiftForm} (hf : f.wellFormed = true) {i : Instr}
    (hi : shiftInstr n f = some i) (rest : Bytes) : decode (encodeShift n f ++ rest) = .ok (i, rest) := by
  cases f with
  | rm8 rm c | rm16 rm c =>
    replace hf : rm.wellFormed = true := hf
    cases c with
    | one | cl => simp [encodeShift, decode, decodeOp, decodeD, shift8, shift16, withGroup_encodeRM, hf, hi]
    | imm k => simp [encodeShift, decode, decodeOp, decodeC, shift8, shift16, withShiftImm_encodeRM, hf, hi]

theorem decode_encodeMov {f : MovForm} (hf : f.wellFormed = true) (rest : Bytes) :
    decode (encodeMov f ++ rest) = .ok (.mov f, rest) := by
  cases f with
  | rmReg8 rm r | rmReg16 rm r | regRm8 r rm | regRm16 r rm =>
    replace hf : rm.wellFormed = true := hf
    simp [encodeMov, decode, decodeOp, decode8, withRM_encodeRM, hf]
  | alMem o | axMem o | memAl o | memAx o => simp [encodeMov, decode, decodeOp, decodeA]
  | regImm8 r imm => cases r <;> rfl
  | regImm16 r imm => cases r <;> simp [encodeMov, opReg, Reg16.num, Reg16.ofNum, decode, decodeOp, decodeB]
  | rmImm8 rm imm =>
    replace hf : rm.wellFormed = true := hf
    simp [encodeMov, decode, decodeOp, decodeC, withOnly0_encodeRM, withByte, hf]
  | rmImm16 rm imm =>
    replace hf : rm.wellFormed = true := hf
    simp [encodeMov, decode, decodeOp, decodeC, withOnly0_encodeRM, hf]

theorem decode_encodeXchg {f : XchgForm} (hf : f.wellFormed = true) (rest : Bytes) :
    decode (encodeXchg f ++ rest) = .ok (.xchg f, rest) := by
  cases f with
  | rmReg8 rm r | rmReg16 rm r =>
    replace hf : rm.wellFormed = true := hf
    simp [encodeXchg, decode, decodeOp, decode8, withRM_encodeRM, hf]

/-- The opcode of operation `n` in column `c` of 00H to 3FH. -/
theorem decode_alu {op : Byte} {n c : BitVec 3} (h : op = modrmByte 0 n c) (t : Bytes) :
    decode (op :: t) = decode0to3 (modrmByte 0 n c) t := by
  subst h
  cases n using field_cases <;> cases c using field_cases <;> rfl

theorem decode_encodeAlu (n : BitVec 3) {f : AluForm} (hf : f.wellFormed = true) (rest : Bytes) :
    decode (encodeAlu (modrmByte 0 n 0) n f ++ rest) = .ok (aluInstr n f, rest) := by
  cases f with
  | rmReg8 rm r =>
    replace hf : rm.wellFormed = true := hf
    exact (decode_alu rfl _).trans (by simp [decode0to3, withRM_encodeRM, hf])
  | rmReg16 rm r =>
    replace hf : rm.wellFormed = true := hf
    exact (decode_alu (opReg_modrmByte 0 n 1) _).trans (by simp [decode0to3, withRM_encodeRM, hf])
  | regRm8 r rm =>
    replace hf : rm.wellFormed = true := hf
    exact (decode_alu (opReg_modrmByte 0 n 2) _).trans (by simp [decode0to3, withRM_encodeRM, hf])
  | regRm16 r rm =>
    replace hf : rm.wellFormed = true := hf
    exact (decode_alu (opReg_modrmByte 0 n 3) _).trans (by simp [decode0to3, withRM_encodeRM, hf])
  | al imm => exact (decode_alu (opReg_modrmByte 0 n 4) _).trans (by simp [decode0to3, withByte])
  | ax imm => exact (decode_alu (opReg_modrmByte 0 n 5) _).trans (by simp [decode0to3])
  | rmImm8 rm imm | rmImm8Alias rm imm | rmImmSx rm imm =>
    replace hf : rm.wellFormed = true := hf
    simp [encodeAlu, decode, decodeOp, decode8, withGroup1_immByte, hf]
  | rmImm16 rm imm =>
    replace hf : rm.wellFormed = true := hf
    simp [encodeAlu, decode, decodeOp, decode8, withGroup1_immWord, hf]

theorem decode_encodeEsc (op : BitVec 6) {rm : RM16} (hf : rm.wellFormed = true) (rest : Bytes) :
    decode (encode (.esc op rm) ++ rest) = .ok (.esc op rm, rest) := by
  obtain ⟨c, reg, rfl⟩ : ∃ c reg : BitVec 3, op = c ++ reg :=
    ⟨op.extractLsb' 3 3, op.extractLsb' 0 3, by revert op; decide⟩
  rw [encode_esc]
  cases c using field_cases <;> simp [opReg, decode, decodeOp, decodeD, withRM_encodeRM, hf]

theorem decode_group4 {n : BitVec 3} {x : RawRM} (hx : x.wellFormed = true) {i : Instr} (hi : group4 n x = some i)
    (rest : Bytes) : decode (0xFE :: encodeRM n x ++ rest) = .ok (i, rest) := by
  simp [decode, decodeOp, decodeF, withGroup_encodeRM, hx, hi]

theorem decode_group5 {n : BitVec 3} {x : RawRM} (hx : x.wellFormed = true) {i : Instr} (hi : group5 0xFF n x = .ok i)
    (rest : Bytes) : decode (0xFF :: encodeRM n x ++ rest) = .ok (i, rest) := by
  have h : group5 0xFF#8 n x = .ok i := hi
  simp [decode, decodeOp, decodeF, withModRM_encodeRM, hx, h]

/-- Decoding undoes encoding, constructor by constructor. The instructions not named have fixed bytes, or a byte behind the
opcode, so the decoder evaluates on them. -/
theorem decode_encode (i : Instr) (rest : Bytes) (h : i.wellFormed = true) :
    decode (encode i ++ rest) = .ok (i, rest) := by
  cases i with
  | add f => exact decode_encodeAlu 0 h rest
  | or f => exact decode_encodeAlu 1 h rest
  | adc f => exact decode_encodeAlu 2 h rest
  | sbb f => exact decode_encodeAlu 3 h rest
  | and f => exact decode_encodeAlu 4 h rest
  | sub f => exact decode_encodeAlu 5 h rest
  | xor f => exact decode_encodeAlu 6 h rest
  | cmp f => exact decode_encodeAlu 7 h rest
  | test f => exact decode_encodeTest h rest
  | mov f => exact decode_encodeMov h rest
  | xchg f => exact decode_encodeXchg h rest
  | not f | neg f | mul f | imul f | div f | idiv f => exact decode_encodeUnary h rfl rest
  | rol f | ror f | rcl f | rcr f | shl f | shr f | sar f => exact decode_encodeShift h rfl rest
  | inc f | dec f =>
    cases f with
    | reg16 r => cases r <;> rfl
    | rm8 rm => exact decode_group4 (rm.raw_wellFormed.trans h) (by simp [group4]) rest
    | rm16 rm => exact decode_group5 (rm.raw_wellFormed.trans h) (by simp [group5]) rest
  | callNearInd rm | jmpNearInd rm | pushRm rm =>
    exact decode_group5 (rm.raw_wellFormed.trans h) (by simp [group5]) rest
  | callFarInd m | jmpFarInd m => exact decode_group5 (x := .mem m) h rfl rest
  | esc op rm => exact decode_encodeEsc op h rest
  | imulImm16 r rm imm | imulImm8 r rm imm =>
    replace h : rm.wellFormed = true := h
    simp [encode, decode, decodeOp, decode6, withModRM_encodeRM, withByte, h]
  | bound r m | lea r m | lds r m | les r m =>
    replace h : m.wellFormed = true := h
    simp [encode, decode, decodeOp, decode6, decode8, decodeC, withMem_encodeRM, h]
  | popRm rm =>
    replace h : rm.wellFormed = true := h
    simp [encode, decode, decodeOp, decode8, withOnly0_encodeRM, h]
  | movFromSeg rm sr =>
    replace h : rm.wellFormed = true := h
    simp [encode, decode, decodeOp, decode8, withSegRM, withModRM_encodeRM, h]
  | movToSeg sr rm =>
    obtain ⟨hsr, hrm⟩ : sr ≠ .cs ∧ rm.wellFormed = true := by simpa [Instr.wellFormed] using h
    simp [encode, decode, decodeOp, decode8, withSegRM, withModRM_encodeRM, hsr, hrm]
  | popSeg sr =>
    cases sr with
    | cs => cases h
    | es | ss | ds => rfl
  | xchgAx r =>
    cases r with
    | ax => cases h
    | cx | dx | bx | sp | bp | si | di => rfl
  | pushSeg r | seg r | popReg r | pushReg r => cases r <;> rfl
  | callNear d | jmpNear d => simp [encode, decode, decodeOp, decodeE]
  | retPop n | retFarPop n => simp [encode, decode, decodeOp, decodeC]
  | pushImm16 imm => simp [encode, decode, decodeOp, decode6]
  | callFar o s => exact (decode9_callFar o _).trans (withWord_wordBytes s rest _)
  | jmpFar o s => exact (decodeE_jmpFar o _).trans (withWord_wordBytes s rest _)
  | enter n l => exact decodeC_enter n (l :: rest)
  | cmps w | ins w | lods w | movs w | outs w | scas w | stos w => cases w <;> rfl
  | inPort w p | outPort w p => cases w <;> cases p <;> rfl
  | _ => rfl

/-! ### The round trips -/

/-- Settles O7: `decode_encode`. -/
theorem decodeOfEncode : Obligations.DecodeOfEncode := by
  unfold Obligations.DecodeOfEncode
  exact decode_encode

/-- Settles O8: every opcode byte reads only encodings (`decodeOp_reads`). -/
theorem encodeOfDecode : Obligations.EncodeOfDecode := by
  unfold Obligations.EncodeOfDecode
  intro bytes i rest h
  cases bytes with
  | nil => cases h
  | cons op t => exact (decodeOp_reads op).sound t i rest h

/-- Settles O6: the decoder evaluated on each of the words. -/
theorem decodesSpecWords : Obligations.DecodesSpecWords := by
  unfold Obligations.DecodesSpecWords
  exact ⟨rfl, rfl, rfl, rfl, rfl, rfl, rfl, rfl, rfl, rfl, rfl, rfl, rfl, rfl, rfl⟩

end Sys2Proof

namespace Sys2Proof.Machine

/-! ### When a step has no meaning -/

theorem State.codeBytes_length (s : State) (o : Word) (n : Nat) : (s.codeBytes o n).length = n := by
  induction n generalizing o with
  | zero => rfl
  | succ k ih => simp only [State.codeBytes, List.length_cons, ih]

/-- The bytes fetched never end inside the instruction. -/
theorem State.decode_fetchBytes_ne_truncated (s : State) : decode s.fetchBytes ≠ .error .truncated := fun h => by
  have short := length_lt_of_decode_truncated h
  rw [State.fetchBytes, State.codeBytes_length] at short
  exact lt_irrefl _ short

theorem State.prefixRefusal_repeat {s : State} {i : Instr} (hi : Instr.isPrefix i = false)
    (hrep : s.pre.rep.isSome = true) (hs : Instr.isString i = false) :
    s.prefixRefusal i = some .repeatBeforeNonString := by
  simp [State.prefixRefusal, hi, hrep, hs]

theorem State.prefixRefusal_lock {s : State} {i : Instr} (hi : Instr.isPrefix i = false)
    (hs : s.pre.rep = none ∨ Instr.isString i = true) (hlock : s.pre.lock = true)
    (hm : Instr.hasMemoryDestination i = false) : s.prefixRefusal i = some .lockWithoutMemoryDestination := by
  have hrep : (s.pre.rep.isSome && !Instr.isString i) = false := by rcases hs with h | h <;> simp [h]
  simp [State.prefixRefusal, hi, hrep, hlock, hm]

section
variable {s : State} (run : s.running)
include run

theorem step_of_staleInstruction {i : Instr} {rest : Bytes} (hd : decode s.fetchBytes = .ok (i, rest))
    (stale : s.storedFrom s.ip (maxInstrBytes - rest.length) = true) : step s = .refused .staleInstructionByte := by
  obtain ⟨hr, hh, hw⟩ := run
  simp [step, State.settle, hr, hh, hw, hd, stale]

theorem step_of_prefixRefusal {i : Instr} {rest : Bytes} {r : Refusal} (hd : decode s.fetchBytes = .ok (i, rest))
    (fresh : s.storedFrom s.ip (maxInstrBytes - rest.length) = false) (hp : s.prefixRefusal i = some r) :
    step s = .refused r := by
  obtain ⟨hr, hh, hw⟩ := run
  simp [step, State.settle, hr, hh, hw, hd, fresh, hp]

theorem step_of_staleEncoding {e : DecodeError} (hd : decode s.fetchBytes = .error e)
    (stale : s.storedFrom s.ip (DecodeError.span e) = true) : step s = .refused .staleInstructionByte := by
  obtain ⟨hr, hh, hw⟩ := run
  simp [step, State.settle, hr, hh, hw, hd, stale]

theorem step_of_undefinedEncoding {e : DecodeError} (hd : decode s.fetchBytes = .error e)
    (fresh : s.storedFrom s.ip (DecodeError.span e) = false) : step s = s.settle (s.undefinedEncoding e) := by
  obtain ⟨hr, hh, hw⟩ := run
  simp [step, hr, hh, hw, hd, fresh]

/-- Bytes that are no instruction, but for those of AAM and AAD: what `UNDEFINED_OPCODE_ACTION` leaves open (R91, R348). -/
theorem step_undefined {e : DecodeError} (hd : decode s.fetchBytes = .error e)
    (he : s.undefinedEncoding e =
      if Config.undefinedOpcodeTraps then
        .next (s.endInstr ((s.atUndefined e).interrupt 6 (s.atUndefined e).thisIp))
      else .refused (.undefinedEncoding e)) :
    if s.storedFrom s.ip (DecodeError.span e) then step s = .refused .staleInstructionByte
    else if Config.undefinedOpcodeTraps then
      ∃ u, (s.atUndefined e).entered u 6 s.flags (if s.pre.active then s.thisIp else s.ip) [] ∧
        step s = if s.storesIntoText (s.endInstr u) then .refused .storeIntoProgramText else .next (s.endInstr u)
    else step s = .refused (.undefinedEncoding e) := by
  split
  next stale => exact step_of_staleEncoding run hd stale
  next fresh =>
    have hstep := step_of_undefinedEncoding run hd (Bool.eq_false_iff.mpr fresh)
    rw [he] at hstep
    split
    next traps =>
      rw [if_pos traps] at hstep
      exact ⟨_, State.interrupt_entered _ _ _ _, hstep⟩
    next refuses =>
      rw [if_neg refuses] at hstep
      exact hstep

end

/-- Settles O59: the decoder's answer decides which refusal it is, and six bytes are enough for it. -/
theorem stepRefusals : Obligations.StepRefusals := by
  unfold Obligations.StepRefusals
  intro s hr hh hw
  have run : s.running := ⟨hr, hh, hw⟩
  cases hd : decode s.fetchBytes with
  | ok answer =>
    obtain ⟨i, rest⟩ := answer
    refine ⟨step_of_staleInstruction run hd, fun fresh hi => ⟨fun hrep hs => ?_, fun hs hlock hm => ?_⟩⟩
    · exact step_of_prefixRefusal run hd fresh (State.prefixRefusal_repeat hi hrep hs)
    · exact step_of_prefixRefusal run hd fresh (State.prefixRefusal_lock hi hs hlock hm)
  | error e =>
    cases e with
    | truncated => exact s.decode_fetchBytes_ne_truncated hd
    | decimalBase op b =>
      dsimp only
      split
      next stale => exact step_of_staleEncoding run hd stale
      next fresh => exact step_of_undefinedEncoding run hd (Bool.eq_false_iff.mpr fresh)
    | undefinedOpcode | undefinedGroup | registerOperand | segmentNumber | codeSegmentLoad =>
      exact step_undefined run hd rfl

end Sys2Proof.Machine
end

section
/-! PROOF. The family of 40_arithmetic.md: what each arithmetic instruction leaves in its destination and in the flags, and
its frame; the divide error; what the conditional jumps tell after CMP. First addition and subtraction, through the shared
forms. -/

namespace Sys2Proof.Machine

/-! ### Addition and subtraction -/

section
variable {op : AluOp} {i : Instr} {f : AluForm} {s : State} {c : Bool}

/-- An instruction that runs a two-operand form over `a + b + c`. -/
theorem exec_sum_spec (hi : exec i s = .next (runAlu op f s))
    (hop : ∀ w a b, op w a b s = (addResult a b c, s.setFlags (addFlags s.flags a b c))) :
    match AluForm.operands f s with
    | .byte d a b =>
      ∃ t, exec i s = .next t ∧ s.puts8 t d (a + b + BitVec.ofNat 8 (bitNat c)) ∧ s.flags.afterAdd t.flags a b c ∧
        s.goesOn t
    | .word d a b =>
      ∃ t, exec i s = .next t ∧ s.puts16 t d (a + b + BitVec.ofNat 16 (bitNat c)) ∧ s.flags.afterAdd t.flags a b c ∧
        s.goesOn t := by
  have spec := runAlu_spec op f s (fun w a b => by rw [hop]; exact s.agrees_setFlags _)
    (fun w a b => by rw [hop]; exact ⟨rfl, rfl, rfl⟩)
  cases ho : AluForm.operands f s with
  | byte d a b =>
    simp only [ho, hop, addResult_eq, State.setFlags_flags] at spec
    obtain ⟨hgo, hput, hflags⟩ := spec
    exact ⟨_, hi, hput, hflags ▸ addFlags_afterAdd s.flags (.inl rfl) a b c, hgo⟩
  | word d a b =>
    simp only [ho, hop, addResult_eq, State.setFlags_flags] at spec
    obtain ⟨hgo, hput, hflags⟩ := spec
    exact ⟨_, hi, hput, hflags ▸ addFlags_afterAdd s.flags (.inr rfl) a b c, hgo⟩

/-- An instruction that runs a two-operand form over `a - b - c`. -/
theorem exec_difference_spec (hi : exec i s = .next (runAlu op f s))
    (hop : ∀ w a b, op w a b s = (subResult a b c, s.setFlags (subFlags s.flags a b c))) :
    match AluForm.operands f s with
    | .byte d a b =>
      ∃ t, exec i s = .next t ∧ s.puts8 t d (a - b - BitVec.ofNat 8 (bitNat c)) ∧ s.flags.afterSub t.flags a b c ∧
        s.goesOn t
    | .word d a b =>
      ∃ t, exec i s = .next t ∧ s.puts16 t d (a - b - BitVec.ofNat 16 (bitNat c)) ∧ s.flags.afterSub t.flags a b c ∧
        s.goesOn t := by
  have spec := runAlu_spec op f s (fun w a b => by rw [hop]; exact s.agrees_setFlags _)
    (fun w a b => by rw [hop]; exact ⟨rfl, rfl, rfl⟩)
  cases ho : AluForm.operands f s with
  | byte d a b =>
    simp only [ho, hop, State.setFlags_flags] at spec
    obtain ⟨hgo, hput, hflags⟩ := spec
    exact ⟨_, hi, hput, hflags ▸ subFlags_afterSub s.flags (.inl rfl) a b c, hgo⟩
  | word d a b =>
    simp only [ho, hop, State.setFlags_flags] at spec
    obtain ⟨hgo, hput, hflags⟩ := spec
    exact ⟨_, hi, hput, hflags ▸ subFlags_afterSub s.flags (.inr rfl) a b c, hgo⟩

end

/-- Settles O9: both run their form over `add_N`, with 0 or CF as the carry. -/
theorem addAndAdcResults : Obligations.AddAndAdcResults := by
  unfold Obligations.AddAndAdcResults
  intro f s
  simp only [List.forall_mem_cons, List.not_mem_nil, false_imp_iff, implies_true, and_true]
  exact ⟨exec_sum_spec rfl fun _ _ _ => rfl, exec_sum_spec rfl fun _ _ _ => rfl⟩

/-- Settles O10: both run their form over `sub_N`, with 0 or CF as the borrow. -/
theorem subAndSbbResults : Obligations.SubAndSbbResults := by
  unfold Obligations.SubAndSbbResults
  intro f s
  simp only [List.forall_mem_cons, List.not_mem_nil, false_imp_iff, implies_true, and_true]
  exact ⟨exec_difference_spec rfl fun _ _ _ => rfl, exec_difference_spec rfl fun _ _ _ => rfl⟩

/-- CMP changes the flags only, to those of the difference. -/
theorem runAluFlags_aluSub (f : AluForm) (s : State) :
    ∃ g, runAluFlags aluSub f s = s.setFlags g ∧
      match AluForm.operands f s with
      | .byte _ a b => s.flags.afterSub g a b false
      | .word _ a b => s.flags.afterSub g a b false := by
  have spec := runAluFlags_spec aluSub f s
  cases ho : AluForm.operands f s with
  | byte d a b =>
    rw [ho] at spec
    exact ⟨_, spec, subFlags_afterSub s.flags (.inl rfl) a b false⟩
  | word d a b =>
    rw [ho] at spec
    exact ⟨_, spec, subFlags_afterSub s.flags (.inr rfl) a b false⟩

/-- Settles O11: CMP's state is the old one with other flags. -/
theorem cmpSetsFlagsOnly : Obligations.CmpSetsFlagsOnly := by
  unfold Obligations.CmpSetsFlagsOnly
  intro f s
  obtain ⟨g, hrun, hflags⟩ := runAluFlags_aluSub f s
  exact ⟨s.setFlags g, congrArg Host.Outcome.next hrun, State.agrees_keeps (s.agrees_setFlags g), ⟨rfl, rfl, rfl⟩, hflags⟩

/-! ### INC, DEC and NEG -/

theorem addResult_one {w : Nat} (a : BitVec w) : addResult a 1 false = a + 1 := by simp [addResult_eq, bitNat]

theorem subResult_one {w : Nat} (a : BitVec w) : subResult a 1 false = a - 1 := by simp [subResult, bitNat]

theorem subResult_zero_left {w : Nat} (a : BitVec w) : subResult 0 a false = -a := by simp [subResult, bitNat]

/-- The flags of INC, in the words of R137. -/
theorem incFlags_afterInc (f : Flags) {w : Nat} (h : w = 8 ∨ w = 16) (a : BitVec w) :
    f.afterInc { addFlags f a 1 false with CF := f.CF } a := by
  obtain ⟨-, haf, hof, htells, hcontrol⟩ := addFlags_afterAdd f h a 1 false
  refine ⟨rfl, haf.trans ?_, hof.trans ?_, ?_, hcontrol⟩
  · have one : (1 : BitVec w).toNat = 1 := BitVec.toNat_one (by omega)
    simp only [one, bitNat, decide_eq_decide, Bool.false_eq_true, if_false]
    omega
  · have ha := a.isLt
    rw [Bool.eq_iff_iff]
    rcases h with rfl | rfl <;>
      simp [bitNat, BitVec.msb_eq_decide, BitVec.toNat_add] at ha ⊢ <;> omega
  · simpa [bitNat, Flags.tellsResult] using htells

/-- The flags of DEC, in the words of R132. -/
theorem decFlags_afterDec (f : Flags) {w : Nat} (h : w = 8 ∨ w = 16) (a : BitVec w) :
    f.afterDec { subFlags f a 1 false with CF := f.CF } a := by
  obtain ⟨-, haf, hof, htells, hcontrol⟩ := subFlags_afterSub f h a 1 false
  refine ⟨rfl, haf.trans ?_, hof.trans ?_, ?_, hcontrol⟩
  · have one : (1 : BitVec w).toNat = 1 := BitVec.toNat_one (by omega)
    simp only [one, bitNat, decide_eq_decide, Bool.false_eq_true, if_false]
    omega
  · have ha := a.isLt
    rw [Bool.eq_iff_iff]
    rcases h with rfl | rfl <;>
      simp [bitNat, BitVec.msb_eq_decide, BitVec.toNat_sub] at ha ⊢ <;> omega
  · simpa [bitNat, Flags.tellsResult] using htells

/-- The flags of NEG, in the words of R139. -/
theorem negFlags_afterNeg (f : Flags) {w : Nat} (h : w = 8 ∨ w = 16) (a : BitVec w) :
    f.afterNeg (subFlags f 0 a false) a := by
  obtain ⟨hcf, haf, hof, htells, hcontrol⟩ := subFlags_afterSub f h 0 a false
  refine ⟨hcf.trans ?_, haf.trans ?_, hof.trans ?_, ?_, hcontrol⟩
  · simp [bitNat, Nat.pos_iff_ne_zero]
  · simp [bitNat, Nat.pos_iff_ne_zero]
  · have ha := a.isLt
    rw [Bool.eq_iff_iff]
    rcases h with rfl | rfl <;>
      simp [bitNat, BitVec.msb_eq_decide, BitVec.toNat_neg] at ha ⊢ <;> omega
  · simpa [bitNat] using htells

/-- Settles O12: both run their form over `add_N` or `sub_N` with 1 and put CF back. -/
theorem incAndDecResults : Obligations.IncAndDecResults := by
  unfold Obligations.IncAndDecResults
  intro f s
  obtain ⟨incGoesOn, inc⟩ := runInc_spec unaryInc f s (fun _ _ => s.agrees_setFlags _) (fun _ _ => ⟨rfl, rfl, rfl⟩)
  obtain ⟨decGoesOn, dec⟩ := runInc_spec unaryDec f s (fun _ _ => s.agrees_setFlags _) (fun _ _ => ⟨rfl, rfl, rfl⟩)
  cases ho : IncForm.operand f s with
  | byte d a =>
    simp only [ho, unaryInc, unaryDec, addResult_one, subResult_one, State.setFlags_flags] at inc dec
    exact ⟨⟨_, rfl, inc.1, inc.2 ▸ incFlags_afterInc s.flags (.inl rfl) a, incGoesOn⟩,
      _, rfl, dec.1, dec.2 ▸ decFlags_afterDec s.flags (.inl rfl) a, decGoesOn⟩
  | word d a =>
    simp only [ho, unaryInc, unaryDec, addResult_one, subResult_one, State.setFlags_flags] at inc dec
    exact ⟨⟨_, rfl, inc.1, inc.2 ▸ incFlags_afterInc s.flags (.inr rfl) a, incGoesOn⟩,
      _, rfl, dec.1, dec.2 ▸ decFlags_afterDec s.flags (.inr rfl) a, decGoesOn⟩

/-- Settles O13: NEG runs its form over `sub_N` from 0. -/
theorem negResult : Obligations.NegResult := by
  unfold Obligations.NegResult
  intro f s
  obtain ⟨goesOn, neg⟩ := runUnary_spec unaryNeg f s (fun _ _ => s.agrees_setFlags _) (fun _ _ => ⟨rfl, rfl, rfl⟩)
  cases ho : UnaryForm.operand f s with
  | byte d a =>
    simp only [ho, unaryNeg, subResult_zero_left, State.setFlags_flags] at neg
    exact ⟨_, rfl, neg.1, neg.2 ▸ negFlags_afterNeg s.flags (.inl rfl) a, goesOn⟩
  | word d a =>
    simp only [ho, unaryNeg, subResult_zero_left, State.setFlags_flags] at neg
    exact ⟨_, rfl, neg.1, neg.2 ▸ negFlags_afterNeg s.flags (.inr rfl) a, goesOn⟩

/-! ### Comparing -/

/-- After `a - b` ZF tells of equality and CF of the unsigned order. -/
theorem Flags.afterSub_unsigned {f g : Flags} {w : Nat} {a b : BitVec w} (h : f.afterSub g a b false) :
    g.ZF = decide (a = b) ∧ g.CF = decide (a.toNat < b.toNat) := by
  obtain ⟨hcf, -, -, ⟨-, hzf, -⟩, -⟩ := h
  refine ⟨hzf.trans ?_, by simpa [bitNat] using hcf⟩
  rw [Bool.eq_iff_iff]
  simpa [bitNat] using sub_eq_zero (a := a) (b := b)

/-- The difference of two numbers of one sign overflows no signed range: its sign is the borrow. -/
theorem msb_sub_of_msb_eq {w : Nat} (hw : w = 8 ∨ w = 16) {a b : BitVec w} (h : a.msb = b.msb) :
    (a - b).msb = decide (a.toNat < b.toNat) := by
  have ha := a.isLt
  have hb := b.isLt
  simp only [BitVec.msb_eq_decide, BitVec.toNat_sub, decide_eq_decide] at h ⊢
  rcases hw with rfl | rfl <;> omega

/-- After `a - b` SF and OF together tell of the signed order: OF says when the sign of the difference is not that of the
exact one. -/
theorem Flags.afterSub_signed {f g : Flags} {w : Nat} (hw : w = 8 ∨ w = 16) {a b : BitVec w}
    (h : f.afterSub g a b false) : (g.SF != g.OF) = decide (a.toInt < b.toInt) := by
  obtain ⟨-, -, hof, ⟨hsf, -⟩, -⟩ := h
  have ha : (a.toNat : Int) < 2 ^ w := mod_cast a.isLt
  have hb : (b.toNat : Int) < 2 ^ w := mod_cast b.isLt
  have sameSigns := msb_sub_of_msb_eq hw (a := a) (b := b)
  rw [hof, hsf, Bool.eq_iff_iff]
  cases signA : a.msb <;> cases signB : b.msb <;>
    simp_all [bitNat, BitVec.toInt_eq_msb_cond]
  all_goals omega

/-- The ten jumps of 42_control_transfer.md R200 that compare, each with what it finds of the operands `a` and `b`. -/
def comparisons {w : Nat} (d : Byte) (a b : BitVec w) : List (Instr × Bool) :=
  [(.je d, decide (a = b)), (.jne d, decide (a ≠ b)), (.jb d, decide (a.toNat < b.toNat)),
    (.jae d, decide (b.toNat ≤ a.toNat)), (.jbe d, decide (a.toNat ≤ b.toNat)), (.ja d, decide (b.toNat < a.toNat)),
    (.jl d, decide (a.toInt < b.toInt)), (.jge d, decide (b.toInt ≤ a.toInt)), (.jle d, decide (a.toInt ≤ b.toInt)),
    (.jg d, decide (b.toInt < a.toInt))]

theorem State.jumpIf_ip (s : State) (c : Bool) (d : Byte) :
    (s.jumpIf c d).ip = if c then s.ip + d.signExtend 16 else s.ip := by
  cases c <;> rfl

/-- A conditional jump whose condition comes to `c`. -/
theorem exec_jumpIf_ip {i : Instr} {s : State} {d : Byte} {c c' : Bool} (hi : exec i s = .next (s.jumpIf c' d))
    (h : c' = c) : ∃ u, exec i s = .next u ∧ u.ip = if c then s.ip + d.signExtend 16 else s.ip :=
  ⟨_, hi, h ▸ s.jumpIf_ip c' d⟩

/-- After the flags of `a - b` each of the ten jumps finds what it says of the operands. -/
theorem comparisons_jump {f : Flags} {t : State} {w : Nat} (hw : w = 8 ∨ w = 16) {a b : BitVec w}
    (h : f.afterSub t.flags a b false) (d : Byte) :
    ∀ p ∈ comparisons d a b, ∃ u, exec p.1 t = .next u ∧ u.ip = if p.2 then t.ip + d.signExtend 16 else t.ip := by
  obtain ⟨zero, carry⟩ := Flags.afterSub_unsigned h
  have less := Flags.afterSub_signed hw h
  have notLess : (t.flags.SF == t.flags.OF) = decide (b.toInt ≤ a.toInt) := by
    rw [← Bool.not_not (t.flags.SF == t.flags.OF), ← bne, less, ← decide_not, decide_eq_decide, not_lt]
  have natEq : a = b ↔ a.toNat = b.toNat := BitVec.toNat_inj.symm
  have intEq : a = b ↔ a.toInt = b.toInt := BitVec.toInt_inj.symm
  simp only [comparisons, List.forall_mem_cons, List.not_mem_nil, false_imp_iff, implies_true, and_true]
  refine ⟨exec_jumpIf_ip rfl zero, exec_jumpIf_ip rfl ?_, exec_jumpIf_ip rfl carry, exec_jumpIf_ip rfl ?_,
    exec_jumpIf_ip rfl ?_, exec_jumpIf_ip rfl ?_, exec_jumpIf_ip rfl less, exec_jumpIf_ip rfl notLess,
    exec_jumpIf_ip rfl ?_, exec_jumpIf_ip rfl ?_⟩
  case refine_1 => simp [zero]
  case refine_2 => rw [Bool.eq_iff_iff]; simp [carry]
  case refine_3 | refine_4 => rw [Bool.eq_iff_iff]; simp [zero, carry, natEq]; omega
  case refine_5 => simp [less, zero, intEq, le_iff_lt_or_eq]
  case refine_6 => rw [Bool.eq_iff_iff]; simp [zero, notLess, intEq]; omega

/-- Settles O30: CMP leaves the flags of the difference, of which the jumps' conditions speak. -/
theorem compareThenJump : Obligations.CompareThenJump := by
  unfold Obligations.CompareThenJump
  intro f s d
  obtain ⟨g, hrun, hflags⟩ := runAluFlags_aluSub f s
  refine ⟨s.setFlags g, congrArg Host.Outcome.next hrun, ?_⟩
  cases ho : AluForm.operands f s with
  | byte _ a b => rw [ho] at hflags; exact comparisons_jump (t := s.setFlags g) (.inl rfl) hflags d
  | word _ a b => rw [ho] at hflags; exact comparisons_jump (t := s.setFlags g) (.inr rfl) hflags d

end Sys2Proof.Machine
end

section
/-! PROOF. The family of 40_arithmetic.md, continued: the decimal adjustments and the sign extensions, which change AX or DX
only. -/

namespace Sys2Proof.Machine

/-! ### Results in one register -/

/-- The frame of an instruction whose result goes to one register and the flags. -/
theorem State.keeps_setReg_setFlags_drawn (s : State) (r : Reg16) (v : Word) (g : Flags) (k : Nat) :
    s.keeps (((s.setReg r v).setFlags g).drawn k) [r] [] [] :=
  State.agrees_setReg_keeps (s.agrees_setFlags_drawn g k) r v

theorem toNat_ofNat_byte {n : Nat} (h : n < 256) : (BitVec.ofNat 8 n).toNat = n := by
  rw [BitVec.toNat_ofNat, Nat.mod_eq_of_lt h]

/-! ### AAA, AAS, AAM and AAD -/

/-- What AAA and AAS have in common: AL and AH are adjusted each for itself (90_conflicts.md C20). -/
theorem asciiAdjust_spec (d e : Byte) (s : State) :
    let adjust := adjustLow (s.reg8 .al) s.flags.AF
    let t := asciiAdjust d e s
    t.reg8 .al = (if adjust then s.reg8 .al + d else s.reg8 .al) &&& 0x0F ∧
      t.reg8 .ah = (if adjust then s.reg8 .ah + e else s.reg8 .ah) ∧ t.flags.AF = adjust ∧ t.flags.CF = adjust ∧
      s.flags.keepsControl t.flags ∧ s.keeps t [.ax] [] [] ∧ s.goesOn t :=
  ⟨Byte.pair_lo _ _, Byte.pair_hi _ _, rfl, rfl, ⟨rfl, rfl, rfl⟩, s.keeps_setReg_setFlags_drawn _ _ _ _, rfl, rfl, rfl⟩

/-- Settles O14: AAS is the same adjustment with the negated constants. -/
theorem asciiAdjustResults : Obligations.AsciiAdjustResults := by
  unfold Obligations.AsciiAdjustResults
  intro s
  have aas := asciiAdjust_spec (-6) (-1) s
  simp only [← BitVec.sub_eq_add_neg] at aas
  exact ⟨⟨_, rfl, asciiAdjust_spec 6 1 s⟩, _, rfl, aas⟩

/-- The end of AAM and AAD: the two digits in AH and AL, the flags telling of AL. -/
def decimalAdjusted (ah al : Byte) (s : State) : State :=
  ((s.setReg .ax (Byte.pair ah al)).setFlags (decimalFlags s.flags al s.free)).drawn 1

theorem decimalAdjusted_spec (ah al : Byte) (s : State) :
    let t := decimalAdjusted ah al s
    t.reg8 .ah = ah ∧ t.reg8 .al = al ∧ t.flags.tellsResult (t.reg8 .al) ∧ s.flags.keepsControl t.flags ∧
      s.keeps t [.ax] [] [] ∧ s.goesOn t := by
  have hal : (decimalAdjusted ah al s).reg8 .al = al := Byte.pair_lo _ _
  refine ⟨Byte.pair_hi _ _, hal, ?_, ⟨rfl, rfl, rfl⟩, s.keeps_setReg_setFlags_drawn _ _ _ _, rfl, rfl, rfl⟩
  rw [hal]
  exact Flags.szp_tellsResult s.flags al

theorem exec_aam (s : State) :
    exec .aam s = .next (decimalAdjusted (BitVec.ofNat 8 ((s.reg8 .al).toNat / 10))
      (BitVec.ofNat 8 ((s.reg8 .al).toNat % 10)) s) := rfl

theorem exec_aad (s : State) :
    exec .aad s = .next (decimalAdjusted 0 (BitVec.ofNat 8 ((s.reg8 .ah).toNat * 10 + (s.reg8 .al).toNat)) s) := rfl

/-- Settles O15: AAM divides AL by the base, AAD joins the digits modulo 2^8. -/
theorem aamAndAadResults : Obligations.AamAndAadResults := by
  unfold Obligations.AamAndAadResults
  intro s
  constructor
  · have hal := (s.reg8 .al).isLt
    obtain ⟨ah, al, tells, frame⟩ := decimalAdjusted_spec (BitVec.ofNat 8 ((s.reg8 .al).toNat / 10))
      (BitVec.ofNat 8 ((s.reg8 .al).toNat % 10)) s
    refine ⟨_, exec_aam s, ?_, ?_, tells, frame⟩
    · rw [ah, al, toNat_ofNat_byte (by omega), toNat_ofNat_byte (by omega)]; omega
    · rw [al, toNat_ofNat_byte (by omega)]; omega
  · obtain ⟨ah, al, tells, frame⟩ := decimalAdjusted_spec 0
      (BitVec.ofNat 8 ((s.reg8 .ah).toNat * 10 + (s.reg8 .al).toNat)) s
    refine ⟨_, exec_aad s, ?_, ah, tells, frame⟩
    rw [al, BitVec.toNat_ofNat]

/-! ### DAA and DAS -/

/-- The test of the high digit in closed form: above 99H, or the carry in. -/
def adjustHigh (al : Byte) (cf : Bool) : Bool := decide (0x99 < al.toNat) || cf

/-- AL after DAA in closed form. -/
def daaResult (al : Byte) (af cf : Bool) : Byte :=
  al + (if adjustLow al af then 6 else 0) + (if adjustHigh al cf then 0x60 else 0)

/-- AL after DAS in closed form. -/
def dasResult (al : Byte) (af cf : Bool) : Byte :=
  al - (if adjustLow al af then 6 else 0) - (if adjustHigh al cf then 0x60 else 0)

/-- DAA's test of the high digit, on AL adjusted and with the carry of that, is the closed one. -/
theorem daa_high_eq (al : Byte) (af cf : Bool) :
    (decide (0x9F < (if adjustLow al af then al + 6 else al).toNat) ||
      (cf || (adjustLow al af && decide (255 < al.toNat + 6)))) = adjustHigh al cf := by
  have hal := al.isLt
  cases cf with
  | true => simp [adjustHigh]
  | false =>
    rw [Bool.eq_iff_iff]
    cases low : adjustLow al af with
    | true => simp [adjustHigh, BitVec.toNat_add]; omega
    | false =>
      simp [adjustLow] at low
      simp [adjustHigh]; omega

/-- DAS's test of the high digit, on AL adjusted, is the closed one outside the 24 states of D39. -/
theorem das_high_eq {al : Byte} {af cf : Bool} (h : dasIsFree al af cf = false) :
    (decide (0x9F < (if adjustLow al af then al - 6 else al).toNat) || cf) = adjustHigh al cf := by
  have hal := al.isLt
  cases cf with
  | true => simp [adjustHigh]
  | false =>
    rw [Bool.eq_iff_iff]
    cases low : adjustLow al af with
    | true =>
      cases af <;> simp [dasIsFree, adjustLow] at h low <;> simp [adjustHigh, BitVec.toNat_sub] <;> omega
    | false =>
      simp [adjustLow] at low
      simp [adjustHigh]; omega

/-- On the 24 states of D39 the low digit is adjusted. -/
theorem adjustLow_of_dasIsFree {al : Byte} {af cf : Bool} (h : dasIsFree al af cf = true) : adjustLow al af = true := by
  cases af with
  | true => simp [adjustLow]
  | false => simp [dasIsFree, adjustLow] at h ⊢; omega

/-- What DAA and DAS have in common: AL gets its new value, AF and CF tell which digits were adjusted, OF is open. -/
def digitsAdjusted (al : Byte) (low high : Bool) (s : State) : State :=
  ((s.setReg8 .al al).setFlags { s.flags.szp al with AF := low, CF := high, OF := s.freeBit 11 }).drawn 1

theorem digitsAdjusted_spec (al : Byte) (low high : Bool) (s : State) :
    let t := digitsAdjusted al low high s
    t.reg8 .al = al ∧ t.reg8 .ah = s.reg8 .ah ∧ t.flags.AF = low ∧ t.flags.CF = high ∧
      t.flags.tellsResult (t.reg8 .al) ∧ s.flags.keepsControl t.flags ∧ s.keeps t [.ax] [] [] ∧ s.goesOn t := by
  have hal : (digitsAdjusted al low high s).reg8 .al = al := State.reg8_setReg8_self s .al al
  refine ⟨hal, State.reg8_setReg8 s .al .ah al, rfl, rfl, ?_, ⟨rfl, rfl, rfl⟩, s.keeps_setReg_setFlags_drawn _ _ _ _,
    rfl, rfl, rfl⟩
  rw [hal]
  exact Flags.szp_tellsResult s.flags al

theorem exec_daa (s : State) :
    exec .daa s = .next (digitsAdjusted (daaResult (s.reg8 .al) s.flags.AF s.flags.CF)
      (adjustLow (s.reg8 .al) s.flags.AF) (adjustHigh (s.reg8 .al) s.flags.CF) s) := by
  have value : (if adjustHigh (s.reg8 .al) s.flags.CF then
        (if adjustLow (s.reg8 .al) s.flags.AF then s.reg8 .al + 6 else s.reg8 .al) + 0x60
      else if adjustLow (s.reg8 .al) s.flags.AF then s.reg8 .al + 6 else s.reg8 .al) =
      daaResult (s.reg8 .al) s.flags.AF s.flags.CF := by
    unfold daaResult
    split <;> split <;> simp
  simp only [exec, execDaa, daa_high_eq, value, digitsAdjusted]

theorem exec_das {s : State} (h : dasIsFree (s.reg8 .al) s.flags.AF s.flags.CF = false) :
    exec .das s = .next (digitsAdjusted (dasResult (s.reg8 .al) s.flags.AF s.flags.CF)
      (adjustLow (s.reg8 .al) s.flags.AF) (adjustHigh (s.reg8 .al) s.flags.CF) s) := by
  have value : (if adjustHigh (s.reg8 .al) s.flags.CF then
        (if adjustLow (s.reg8 .al) s.flags.AF then s.reg8 .al - 6 else s.reg8 .al) - 0x60
      else if adjustLow (s.reg8 .al) s.flags.AF then s.reg8 .al - 6 else s.reg8 .al) =
      dasResult (s.reg8 .al) s.flags.AF s.flags.CF := by
    unfold dasResult
    split <;> split <;> simp
  simp only [exec, execDas, h, Bool.false_eq_true, if_false, das_high_eq h, value, digitsAdjusted]

/-- DAS on the 24 states of D39: what is not open. -/
theorem exec_das_free {s : State} (h : dasIsFree (s.reg8 .al) s.flags.AF s.flags.CF = true) :
    ∃ t, exec .das s = .next t ∧ t.reg8 .ah = s.reg8 .ah ∧ t.flags.AF = true ∧ s.flags.keepsControl t.flags ∧
      s.keeps t [.ax] [] [] ∧ s.goesOn t :=
  ⟨_, if_pos h, State.reg8_setReg8 s .al .ah _, rfl, ⟨rfl, rfl, rfl⟩,
    s.keeps_setReg_setFlags_drawn _ _ _ _, rfl, rfl, rfl⟩

/-- Settles O16: the tests in closed form; on the 24 states of D39 the low digit is adjusted in any case. -/
theorem decimalAdjustResults : Obligations.DecimalAdjustResults := by
  unfold Obligations.DecimalAdjustResults
  intro s
  refine ⟨⟨_, exec_daa s, digitsAdjusted_spec _ _ _ s⟩, ?_⟩
  cases hfree : dasIsFree (s.reg8 .al) s.flags.AF s.flags.CF with
  | true =>
    obtain ⟨t, hexec, hah, haf, hcontrol, hkeeps, hgo⟩ := exec_das_free hfree
    exact ⟨t, hexec, hah, haf.trans (adjustLow_of_dasIsFree hfree).symm, hcontrol, hkeeps, hgo,
      fun h => Bool.noConfusion h⟩
  | false =>
    obtain ⟨hal, hah, haf, hcf, htells, hcontrol, hkeeps, hgo⟩ :=
      digitsAdjusted_spec (dasResult (s.reg8 .al) s.flags.AF s.flags.CF) (adjustLow (s.reg8 .al) s.flags.AF)
        (adjustHigh (s.reg8 .al) s.flags.CF) s
    exact ⟨_, exec_das hfree, hah, haf, hcontrol, hkeeps, hgo, fun _ => ⟨hal, hcf, htells⟩⟩

/-! ### Packed decimal numbers -/

theorem packedDecimal_toNat {n : Nat} (h : n < 100) : (packedDecimal n).toNat = n / 10 * 16 + n % 10 :=
  toNat_ofNat_byte (by omega)

/-- DAA corrects the binary sum of two packed decimal numbers and a carry. -/
theorem daa_packed_sum {x y c : Nat} (hx : x < 100) (hy : y < 100) (hc : c ≤ 1) :
    let al := packedDecimal x + packedDecimal y + BitVec.ofNat 8 c
    let af := decide (16 ≤ (packedDecimal x).toNat % 16 + (packedDecimal y).toNat % 16 + c)
    let cf := decide (2 ^ 8 ≤ (packedDecimal x).toNat + (packedDecimal y).toNat + c)
    daaResult al af cf = packedDecimal ((x + y + c) % 100) ∧ adjustHigh al cf = decide (100 ≤ x + y + c) := by
  have hX := packedDecimal_toNat hx
  have hY := packedDecimal_toNat hy
  intro al af cf
  have hal : al.toNat = ((packedDecimal x).toNat + (packedDecimal y).toNat + c) % 256 := by
    simp [al, BitVec.toNat_add]
  have low : adjustLow al af = decide (10 ≤ x % 10 + y % 10 + c) := by
    rw [Bool.eq_iff_iff]
    simp [adjustLow, af]
    omega
  have high : adjustHigh al cf = decide (100 ≤ x + y + c) := by
    rw [Bool.eq_iff_iff]
    simp [adjustHigh, cf]
    omega
  refine ⟨?_, high⟩
  apply BitVec.eq_of_toNat_eq
  rw [packedDecimal_toNat (Nat.mod_lt _ (by decide)), daaResult, low, high]
  by_cases h1 : 10 ≤ x % 10 + y % 10 + c <;> by_cases h2 : 100 ≤ x + y + c <;>
    simp [h1, h2, BitVec.toNat_add] <;> omega

/-- DAS corrects the binary difference of two packed decimal numbers and a borrow, and no such difference is among the
states of D39. -/
theorem das_packed_difference {x y c : Nat} (hx : x < 100) (hy : y < 100) (hc : c ≤ 1) :
    let al := packedDecimal x - packedDecimal y - BitVec.ofNat 8 c
    let af := decide ((packedDecimal x).toNat % 16 < (packedDecimal y).toNat % 16 + c)
    let cf := decide ((packedDecimal x).toNat < (packedDecimal y).toNat + c)
    dasIsFree al af cf = false ∧ dasResult al af cf = packedDecimal ((x + 100 - y - c) % 100) ∧
      adjustHigh al cf = decide (x < y + c) := by
  have hX := packedDecimal_toNat hx
  have hY := packedDecimal_toNat hy
  intro al af cf
  have hal : al.toNat + (packedDecimal y).toNat + c = (packedDecimal x).toNat ∨
      al.toNat + (packedDecimal y).toNat + c = (packedDecimal x).toNat + 256 := by
    simp [al, BitVec.toNat_sub]
    omega
  have := al.isLt
  have low : adjustLow al af = decide (x % 10 < y % 10 + c) := by
    rw [Bool.eq_iff_iff]
    simp [adjustLow, af]
    omega
  have high : adjustHigh al cf = decide (x < y + c) := by
    rw [Bool.eq_iff_iff]
    simp [adjustHigh, cf]
    omega
  refine ⟨?_, ?_, high⟩
  · rw [Bool.eq_false_iff]
    simp [dasIsFree, af, cf]
    omega
  apply BitVec.eq_of_toNat_eq
  rw [packedDecimal_toNat (Nat.mod_lt _ (by decide)), dasResult, low, high]
  by_cases h1 : x % 10 < y % 10 + c <;> by_cases h2 : x < y + c <;>
    simp [h1, h2, BitVec.toNat_sub] <;> omega

/-- Settles O17: ADC and SBB leave the binary result with its half carry and carry, which DAA and DAS correct. -/
theorem packedDecimalArithmetic : Obligations.PackedDecimalArithmetic := by
  unfold Obligations.PackedDecimalArithmetic
  intro s x y hx hy hs
  have hc := bitNat_le s.flags.CF
  constructor
  · obtain ⟨t, hadc, ⟨⟨hal, -⟩, -⟩, ⟨hcf, haf, -⟩, -⟩ :=
      exec_sum_spec (i := .adc (.al (packedDecimal y))) (f := .al (packedDecimal y)) (s := s) rfl fun _ _ _ => rfl
    obtain ⟨hresult, hcarry⟩ := daa_packed_sum hx hy hc
    obtain ⟨ual, -, -, ucf, -⟩ := digitsAdjusted_spec (daaResult (t.reg8 .al) t.flags.AF t.flags.CF)
      (adjustLow (t.reg8 .al) t.flags.AF) (adjustHigh (t.reg8 .al) t.flags.CF) t
    refine ⟨t, _, hadc, exec_daa t, ual.trans ?_, ucf.trans ?_⟩
    · rw [hal, haf, hcf, hs]; exact hresult
    · rw [hal, hcf, hs]; exact hcarry
  · obtain ⟨t, hsbb, ⟨⟨hal, -⟩, -⟩, ⟨hcf, haf, -⟩, -⟩ :=
      exec_difference_spec (i := .sbb (.al (packedDecimal y))) (f := .al (packedDecimal y)) (s := s) rfl
        fun _ _ _ => rfl
    obtain ⟨hdefined, hresult, hborrow⟩ := das_packed_difference hx hy hc
    obtain ⟨ual, -, -, ucf, -⟩ := digitsAdjusted_spec (dasResult (t.reg8 .al) t.flags.AF t.flags.CF)
      (adjustLow (t.reg8 .al) t.flags.AF) (adjustHigh (t.reg8 .al) t.flags.CF) t
    have hfree : dasIsFree (t.reg8 .al) t.flags.AF t.flags.CF = false := by rw [hal, haf, hcf, hs]; exact hdefined
    refine ⟨t, _, hsbb, exec_das hfree, ual.trans ?_, ucf.trans ?_⟩
    · rw [hal, haf, hcf, hs]; exact hresult
    · rw [hal, hcf, hs]; exact hborrow

/-! ### CBW and CWD -/

/-- Sign extension to twice the width puts a word of sign bits above the operand. -/
theorem signExtend_double {w : Nat} (x : BitVec w) :
    x.signExtend (w + w) = (if x.msb then BitVec.allOnes w else 0) ++ x := by
  apply BitVec.eq_of_toNat_eq
  rw [BitVec.signExtend_eq_append_of_le (Nat.le_add_left w w)]
  cases x.msb <;> simp [BitVec.toNat_append]

/-- CBW and CWD choose between all ones and 0 by the sign, the spec by the unsigned value. -/
theorem signWord_eq {w : Nat} (x : BitVec w) :
    (if x.msb then BitVec.allOnes w else 0) = if x.toNat < 2 ^ (w - 1) then 0 else BitVec.allOnes w := by
  rw [BitVec.msb_eq_decide]
  by_cases h : x.toNat < 2 ^ (w - 1) <;> simp [h]

theorem exec_cbw_spec (s : State) :
    ∃ t, exec .cbw s = .next t ∧ (t.reg .ax).toInt = (s.reg8 .al).toInt ∧
      t.reg8 .ah = (if (s.reg8 .al).toNat < 0x80 then 0x00 else 0xFF) ∧ t.reg8 .al = s.reg8 .al ∧
      t.flags = s.flags ∧ s.keeps t [.ax] [] [] ∧ s.goesOn t := by
  have word : (s.reg8 .al).signExtend 16 = Byte.pair (if (s.reg8 .al).msb then 0xFF else 0) (s.reg8 .al) :=
    signExtend_double (s.reg8 .al)
  refine ⟨_, rfl, BitVec.toInt_signExtend_of_le (by decide), ?_, ?_, rfl,
    State.agrees_setReg_keeps s.agrees_refl _ _, rfl, rfl, rfl⟩
  · exact (congrArg Word.hi word).trans ((Byte.pair_hi _ _).trans (signWord_eq _))
  · exact (congrArg Word.lo word).trans (Byte.pair_lo _ _)

theorem exec_cwd_spec (s : State) :
    ∃ t, exec .cwd s = .next t ∧ (t.reg .dx ++ t.reg .ax).toInt = (s.reg .ax).toInt ∧
      t.reg .dx = (if (s.reg .ax).toNat < 0x8000 then 0x0000 else 0xFFFF) ∧ t.flags = s.flags ∧
      s.keeps t [.dx] [] [] ∧ s.goesOn t :=
  ⟨_, rfl, (congrArg BitVec.toInt (signExtend_double (s.reg .ax)).symm).trans
      (BitVec.toInt_signExtend_of_le (by decide)),
    signWord_eq (s.reg .ax), rfl, State.agrees_setReg_keeps s.agrees_refl _ _, rfl, rfl, rfl⟩

/-- Settles O18: the decoder evaluated, and the extended value as the sign's word above the operand. -/
theorem cbwAndCwdExtendSigns : Obligations.CbwAndCwdExtendSigns := by
  unfold Obligations.CbwAndCwdExtendSigns
  intro s rest
  exact ⟨rfl, rfl, exec_cbw_spec s, exec_cwd_spec s⟩

end Sys2Proof.Machine
end

section
/-! PROOF. The family of 40_arithmetic.md, continued: multiplication and division, whose results go to AX, or to DX and AX,
and the divide error (60_exceptions.md R344). -/

namespace Sys2Proof.Machine

/-! ### Results in DX and AX -/

theorem State.keeps_setDxAx_setFlags_drawn (s : State) (ax dx : Word) (g : Flags) (k : Nat) :
    s.keeps ((((s.setReg .ax ax).setReg .dx dx).setFlags g).drawn k) [.ax, .dx] [] [] := by
  refine ⟨fun r hr => ?_, fun _ _ => rfl, fun _ _ => rfl, rfl, rfl, rfl, rfl, rfl, rfl, rfl, rfl, rfl, rfl, ?_⟩
  · obtain ⟨hax, hdx⟩ : r ≠ .ax ∧ r ≠ .dx := by simpa using hr
    simp [State.reg, Regs.get_set, hax, hdx]
  · simp

/-- `setDxAx` leaves the whole double word in DX:AX. -/
theorem State.setDxAx_value (s : State) (v : BitVec 32) :
    (s.setDxAx v).reg .dx ++ (s.setDxAx v).reg .ax = v :=
  BitVec.extractLsb'_append_extractLsb'

/-! ### MUL and IMUL -/

theorem bne_eq_decide_ne {w : Nat} (x y : BitVec w) : (x != y) = decide (x ≠ y) := by
  rw [Bool.eq_iff_iff]; simp

/-- The unsigned product fits twice the width. -/
theorem toNat_ofNat_product {w : Nat} (a b : BitVec w) :
    (BitVec.ofNat (w + w) (a.toNat * b.toNat)).toNat = a.toNat * b.toNat := by
  rw [BitVec.toNat_ofNat, Nat.mod_eq_of_lt]
  rw [Nat.pow_add]
  exact Nat.mul_lt_mul'' a.isLt b.isLt

/-- The signed product fits twice the width. -/
theorem toInt_ofInt_product {w : Nat} (hw : 0 < w) (a b : BitVec w) :
    (BitVec.ofInt (w + w) (a.toInt * b.toInt)).toInt = a.toInt * b.toInt := by
  have low := BitVec.le_toInt_mul_toInt (x := a) (y := b)
  have high := BitVec.toInt_mul_toInt_le (x := a) (y := b)
  have less : (2 : Int) ^ (w * 2 - 2) < 2 ^ (w + w - 1) := pow_lt_pow_right₀ (by norm_num) (by omega)
  exact BitVec.toInt_ofInt_eq_self (by omega) (by omega) (by omega)

/-- A double word is the sign extension of its lower half exactly when that half reads as the same signed number. -/
theorem bne_signExtend_eq {w v : Nat} (h : w ≤ v) (p : BitVec v) (q : BitVec w) :
    (p != q.signExtend v) = decide (q.toInt ≠ p.toInt) := by
  rw [bne_eq_decide_ne, decide_eq_decide, ne_comm, ne_eq, ← BitVec.toInt_inj, BitVec.toInt_signExtend_of_le h]

/-- Settles O19: the product fits twice the width, so AX, or DX:AX, holds it whole. -/
theorem mulResult : Obligations.MulResult := by
  unfold Obligations.MulResult
  intro f s
  cases f with
  | rm8 rm =>
    exact ⟨_, rfl, toNat_ofNat_product (s.reg8 .al) (s.readRM8 rm), bne_eq_decide_ne _ _, bne_eq_decide_ne _ _,
      ⟨rfl, rfl, rfl⟩, s.keeps_setReg_setFlags_drawn _ _ _ _, rfl, rfl, rfl⟩
  | rm16 rm =>
    refine ⟨_, rfl, ?_, bne_eq_decide_ne _ _, bne_eq_decide_ne _ _, ⟨rfl, rfl, rfl⟩,
      s.keeps_setDxAx_setFlags_drawn _ _ _ _, rfl, rfl, rfl⟩
    exact (congrArg BitVec.toNat (s.setDxAx_value _)).trans (toNat_ofNat_product (s.reg .ax) (s.readRM16 rm))

/-- Settles O20: as for MUL; the lower half alone gives the product when its sign extension is the whole. -/
theorem imulResult : Obligations.ImulResult := by
  unfold Obligations.ImulResult
  intro f s
  cases f with
  | rm8 rm =>
    have product := (toInt_ofInt_product (by decide) (s.readRM8 rm) (s.reg8 .al)).trans (Int.mul_comm _ _)
    refine ⟨_, rfl, product, ?_, rfl, ⟨rfl, rfl, rfl⟩, s.keeps_setReg_setFlags_drawn _ _ _ _, rfl, rfl, rfl⟩
    exact product ▸ bne_signExtend_eq (by decide) _ _
  | rm16 rm =>
    have product := (toInt_ofInt_product (by decide) (s.readRM16 rm) (s.reg .ax)).trans (Int.mul_comm _ _)
    refine ⟨_, rfl, (congrArg BitVec.toInt (s.setDxAx_value _)).trans product, ?_, rfl, ⟨rfl, rfl, rfl⟩,
      s.keeps_setDxAx_setFlags_drawn _ _ _ _, rfl, rfl, rfl⟩
    exact product ▸ bne_signExtend_eq (by decide) _ _

/-- A value fits exactly when its low bits read as it. -/
theorem not_fitsSigned_eq {w : Nat} (hw : 0 < w) (x : Int) :
    (!fitsSigned w x) = decide ((BitVec.ofInt w x).toInt ≠ x) := by
  cases h : fitsSigned w x with
  | true => rw [toInt_ofInt_of_fits hw h]; simp
  | false =>
    have differs : (BitVec.ofInt w x).toInt ≠ x := fun e => by
      have fits := fitsSigned_toInt (BitVec.ofInt w x) hw
      rw [e, h] at fits
      cases fits
    exact (decide_eq_true differs).symm

theorem imulImmediate_spec (r : Reg16) (rm : RM16) (imm : Word) (s : State) :
    let t := imulImmediate r rm imm s
    t.reg r = BitVec.ofInt 16 ((s.readRM16 rm).toInt * imm.toInt) ∧
      t.flags.CF = decide ((t.reg r).toInt ≠ (s.readRM16 rm).toInt * imm.toInt) ∧ t.flags.OF = t.flags.CF ∧
      s.flags.keepsControl t.flags ∧ s.keeps t [r] [] [] ∧ s.goesOn t := by
  have value : (imulImmediate r rm imm s).reg r = BitVec.ofInt 16 ((s.readRM16 rm).toInt * imm.toInt) :=
    Regs.get_set_self _ _ _
  refine ⟨value, ?_, rfl, ⟨rfl, rfl, rfl⟩, s.keeps_setReg_setFlags_drawn _ _ _ _, rfl, rfl, rfl⟩
  rw [value]
  exact not_fitsSigned_eq (by decide) _

/-- Settles O21: the byte immediate's sign extension has its value. -/
theorem imulImmediateResult : Obligations.ImulImmediateResult := by
  unfold Obligations.ImulImmediateResult
  intro r rm iw ib s
  have byteForm := imulImmediate_spec r rm (ib.signExtend 16) s
  rw [BitVec.toInt_signExtend_of_le (by decide)] at byteForm
  simp only [List.forall_mem_cons, List.not_mem_nil, false_imp_iff, implies_true, and_true]
  exact ⟨⟨_, rfl, imulImmediate_spec r rm iw s⟩, _, rfl, byteForm⟩

/-! ### The outcomes of a division -/

theorem divided8_spec (q r : Byte) (s : State) :
    let t := divided8 q r s
    t.reg8 .al = q ∧ t.reg8 .ah = r ∧ s.flags.keepsControl t.flags ∧ s.keeps t [.ax] [] [] ∧ s.goesOn t :=
  ⟨Byte.pair_lo _ _, Byte.pair_hi _ _, ⟨rfl, rfl, rfl⟩, s.keeps_setReg_setFlags_drawn _ _ _ _, rfl, rfl, rfl⟩

theorem divided16_spec (q r : Word) (s : State) :
    let t := divided16 q r s
    t.reg .ax = q ∧ t.reg .dx = r ∧ s.flags.keepsControl t.flags ∧ s.keeps t [.ax, .dx] [] [] ∧ s.goesOn t :=
  ⟨rfl, rfl, ⟨rfl, rfl, rfl⟩, s.keeps_setDxAx_setFlags_drawn _ _ _ _, rfl, rfl, rfl⟩

/-- The divide error of a byte division leaves AX and the six status flags pushed open. -/
theorem divideError8_entered (s : State) :
    ∃ p, s.flags.keepsControl p ∧ s.entered (divideError8 s) 0 p s.faultReturnIp [.ax] :=
  ⟨divFlags s.flags (s.free 0), ⟨rfl, rfl, rfl⟩, State.interrupt_entered_of (s := s) 0 s.faultReturnIp [.ax]
    (s.keeps_setReg_setFlags_drawn .ax _ _ _).1 rfl rfl rfl rfl rfl rfl rfl rfl rfl rfl rfl rfl rfl⟩

/-- The divide error of a word division leaves AX, DX and the six status flags pushed open. -/
theorem divideError16_entered (s : State) :
    ∃ p, s.flags.keepsControl p ∧ s.entered (divideError16 s) 0 p s.faultReturnIp [.ax, .dx] :=
  ⟨divFlags s.flags (s.free 0), ⟨rfl, rfl, rfl⟩, State.interrupt_entered_of (s := s) 0 s.faultReturnIp [.ax, .dx]
    (s.keeps_setDxAx_setFlags_drawn _ _ _ _).1 rfl rfl rfl rfl rfl rfl rfl rfl rfl rfl rfl rfl rfl⟩

/-! ### Quotient and remainder -/

/-- The unsigned quotient and remainder, when the quotient fits. -/
theorem unsignedDivision_spec {w n : Nat} {d : BitVec w} (hd : d.toNat ≠ 0) (fits : n / d.toNat < 2 ^ w) :
    (BitVec.ofNat w (n % d.toNat)).toNat < d.toNat ∧
      (BitVec.ofNat w (n / d.toNat)).toNat * d.toNat + (BitVec.ofNat w (n % d.toNat)).toNat = n := by
  have less := Nat.mod_lt n (Nat.pos_of_ne_zero hd)
  rw [BitVec.toNat_ofNat, BitVec.toNat_ofNat, Nat.mod_eq_of_lt fits, Nat.mod_eq_of_lt (less.trans d.isLt)]
  exact ⟨less, Nat.div_add_mod' n d.toNat⟩

/-- A remainder is smaller than the divisor, so it fits the divisor's width. -/
theorem toInt_ofInt_tmod {w : Nat} (hw : 0 < w) (n : Int) {d : BitVec w} (hd : d.toInt ≠ 0) :
    (BitVec.ofInt w (n.tmod d.toInt)).toInt = n.tmod d.toInt ∧ (n.tmod d.toInt).natAbs < d.toInt.natAbs := by
  have less : (n.tmod d.toInt).natAbs < d.toInt.natAbs := by
    rw [Int.natAbs_tmod]
    exact Nat.mod_lt _ (Int.natAbs_pos.mpr hd)
  have low := d.le_toInt
  have high := d.toInt_lt
  exact ⟨BitVec.toInt_ofInt_eq_self hw (by omega) (by omega), less⟩

/-- A remainder of a division toward 0 is 0 or has the dividend's sign. -/
theorem tmod_eq_zero_or_sign (n d : Int) : n.tmod d = 0 ∨ (n.tmod d < 0 ↔ n < 0) := by
  by_cases h : d ∣ n
  · exact .inl (Int.tmod_eq_zero_of_dvd h)
  · have sign := Int.sign_tmod n d
    rw [if_neg h] at sign
    rw [← Int.sign_eq_neg_one_iff_neg, sign, Int.sign_eq_neg_one_iff_neg]
    exact .inr Iff.rfl

/-- The signed quotient and remainder, when the quotient fits. -/
theorem signedDivision_spec {w : Nat} (hw : 0 < w) {n : Int} {d : BitVec w} (hd : d.toInt ≠ 0)
    (fits : fitsSigned w (n.tdiv d.toInt) = true) :
    (BitVec.ofInt w (n.tmod d.toInt)).toInt.natAbs < d.toInt.natAbs ∧
      (BitVec.ofInt w (n.tdiv d.toInt)).toInt * d.toInt + (BitVec.ofInt w (n.tmod d.toInt)).toInt = n ∧
      (BitVec.ofInt w (n.tmod d.toInt) = 0 ∨ ((BitVec.ofInt w (n.tmod d.toInt)).toInt < 0 ↔ n < 0)) := by
  obtain ⟨remainder, less⟩ := toInt_ofInt_tmod hw n hd
  rw [toInt_ofInt_of_fits hw fits, remainder]
  refine ⟨less, Int.tdiv_mul_add_tmod n d.toInt, (tmod_eq_zero_or_sign n d.toInt).imp_left fun zero => ?_⟩
  rw [zero]; rfl

/-! ### When IDIV faults -/

theorem idivFaults_of_fits {w : Nat} {n d : Int} (hd : d ≠ 0) (fits : fitsSigned w (n.tdiv d) = true)
    (hmin : n.tdiv d ≠ -((2 ^ (w - 1) : Nat) : Int)) : idivFaults w n d = false := by
  rw [idivFaults, fits, decide_eq_false hd, decide_eq_false hmin]; rfl

theorem idivFaults_of_not_fits {w : Nat} {n d : Int} (h : d = 0 ∨ fitsSigned w (n.tdiv d) = false) :
    idivFaults w n d = true := by
  rcases h with h | h <;> simp [idivFaults, h]

/-- At the smallest quotient the parameter decides (log 15). -/
theorem idivFaults_of_min {w : Nat} {n d : Int} (hd : d ≠ 0) (fits : fitsSigned w (n.tdiv d) = true)
    (hmin : n.tdiv d = -((2 ^ (w - 1) : Nat) : Int)) : idivFaults w n d = Config.idivMinQuotientTraps := by
  rw [idivFaults, fits, decide_eq_false hd, decide_eq_true hmin]; rfl

/-! ### The meanings of DIV and IDIV, outcome by outcome -/

section
variable {s : State}

theorem exec_div_rm8 {rm : RM8} (hd : (s.readRM8 rm).toNat ≠ 0)
    (fits : s.regs.ax.toNat / (s.readRM8 rm).toNat ≤ 0xFF) :
    ∃ t, exec (.div (.rm8 rm)) s = .next t ∧
      t.reg8 .al = BitVec.ofNat 8 (s.regs.ax.toNat / (s.readRM8 rm).toNat) ∧
      t.reg8 .ah = BitVec.ofNat 8 (s.regs.ax.toNat % (s.readRM8 rm).toNat) ∧
      s.flags.keepsControl t.flags ∧ s.keeps t [.ax] [] [] ∧ s.goesOn t :=
  ⟨_, congrArg Host.Outcome.next (if_neg (not_or.mpr ⟨hd, Nat.not_lt.mpr fits⟩)), divided8_spec _ _ s⟩

theorem exec_div_rm16 {rm : RM16} (hd : (s.readRM16 rm).toNat ≠ 0)
    (fits : (s.regs.dx ++ s.regs.ax).toNat / (s.readRM16 rm).toNat ≤ 0xFFFF) :
    ∃ t, exec (.div (.rm16 rm)) s = .next t ∧
      t.reg .ax = BitVec.ofNat 16 ((s.regs.dx ++ s.regs.ax).toNat / (s.readRM16 rm).toNat) ∧
      t.reg .dx = BitVec.ofNat 16 ((s.regs.dx ++ s.regs.ax).toNat % (s.readRM16 rm).toNat) ∧
      s.flags.keepsControl t.flags ∧ s.keeps t [.ax, .dx] [] [] ∧ s.goesOn t :=
  ⟨_, congrArg Host.Outcome.next (if_neg (not_or.mpr ⟨hd, Nat.not_lt.mpr fits⟩)), divided16_spec _ _ s⟩

theorem exec_idiv_rm8 {rm : RM8} (h : idivFaults 8 s.regs.ax.toInt (s.readRM8 rm).toInt = false) :
    ∃ t, exec (.idiv (.rm8 rm)) s = .next t ∧
      t.reg8 .al = BitVec.ofInt 8 (s.regs.ax.toInt.tdiv (s.readRM8 rm).toInt) ∧
      t.reg8 .ah = BitVec.ofInt 8 (s.regs.ax.toInt.tmod (s.readRM8 rm).toInt) ∧
      s.flags.keepsControl t.flags ∧ s.keeps t [.ax] [] [] ∧ s.goesOn t :=
  ⟨_, congrArg Host.Outcome.next (if_neg (Bool.eq_false_iff.mp h)), divided8_spec _ _ s⟩

theorem exec_idiv_rm16 {rm : RM16} (h : idivFaults 16 (s.regs.dx ++ s.regs.ax).toInt (s.readRM16 rm).toInt = false) :
    ∃ t, exec (.idiv (.rm16 rm)) s = .next t ∧
      t.reg .ax = BitVec.ofInt 16 ((s.regs.dx ++ s.regs.ax).toInt.tdiv (s.readRM16 rm).toInt) ∧
      t.reg .dx = BitVec.ofInt 16 ((s.regs.dx ++ s.regs.ax).toInt.tmod (s.readRM16 rm).toInt) ∧
      s.flags.keepsControl t.flags ∧ s.keeps t [.ax, .dx] [] [] ∧ s.goesOn t :=
  ⟨_, congrArg Host.Outcome.next (if_neg (Bool.eq_false_iff.mp h)), divided16_spec _ _ s⟩

/-- A byte form that faults enters type 0 with AX open. -/
theorem exec_divideError8 {i : Instr} (h : exec i s = .next (divideError8 s)) :
    ∃ t p, exec i s = .next t ∧ s.flags.keepsControl p ∧ s.entered t 0 p s.faultReturnIp [.ax] := by
  obtain ⟨p, hentered⟩ := divideError8_entered s
  exact ⟨_, p, h, hentered⟩

/-- A word form that faults enters type 0 with AX and DX open. -/
theorem exec_divideError16 {i : Instr} (h : exec i s = .next (divideError16 s)) :
    ∃ t p, exec i s = .next t ∧ s.flags.keepsControl p ∧ s.entered t 0 p s.faultReturnIp [.ax, .dx] := by
  obtain ⟨p, hentered⟩ := divideError16_entered s
  exact ⟨_, p, h, hentered⟩

theorem exec_idiv_rm8_error {rm : RM8} (h : idivFaults 8 s.regs.ax.toInt (s.readRM8 rm).toInt = true) :
    exec (.idiv (.rm8 rm)) s = .next (divideError8 s) := congrArg Host.Outcome.next (if_pos h)

theorem exec_idiv_rm16_error {rm : RM16} (h : idivFaults 16 (s.regs.dx ++ s.regs.ax).toInt (s.readRM16 rm).toInt = true) :
    exec (.idiv (.rm16 rm)) s = .next (divideError16 s) := congrArg Host.Outcome.next (if_pos h)

end

/-! ### The statements about division -/

theorem fitsSigned_byte_iff (x : Int) : fitsSigned 8 x = true ↔ -128 ≤ x ∧ x ≤ 127 := by
  simp [fitsSigned]; omega

theorem fitsSigned_word_iff (x : Int) : fitsSigned 16 x = true ↔ -32768 ≤ x ∧ x ≤ 32767 := by
  simp [fitsSigned]; omega

/-- Settles O22: a quotient that fits is stored, with the remainder of the same division. -/
theorem divisionResults : Obligations.DivisionResults := by
  unfold Obligations.DivisionResults
  intro rm8 rm16 s
  refine ⟨fun hd fits => ?_, fun hd fits => ?_, fun hd low high => ?_, fun hd low high => ?_⟩
  · obtain ⟨t, hexec, al, ah, frame⟩ := exec_div_rm8 hd fits
    refine ⟨t, hexec, ?_⟩
    rw [al, ah, ← and_assoc]
    exact ⟨unsignedDivision_spec hd (Nat.lt_succ_of_le fits), frame⟩
  · obtain ⟨t, hexec, ax, dx, frame⟩ := exec_div_rm16 hd fits
    refine ⟨t, hexec, ?_⟩
    rw [ax, dx, ← and_assoc]
    exact ⟨unsignedDivision_spec hd (Nat.lt_succ_of_le fits), frame⟩
  · have fits := (fitsSigned_byte_iff _).mpr ⟨by omega, high⟩
    obtain ⟨t, hexec, al, ah, frame⟩ := exec_idiv_rm8 (idivFaults_of_fits hd fits (by norm_num; omega))
    obtain ⟨less, division, sign⟩ := signedDivision_spec (by decide) hd fits
    refine ⟨t, hexec, ?_⟩
    rw [al, ah]
    exact ⟨less, division, sign, frame⟩
  · have fits := (fitsSigned_word_iff _).mpr ⟨by omega, high⟩
    obtain ⟨t, hexec, ax, dx, frame⟩ := exec_idiv_rm16 (idivFaults_of_fits hd fits (by norm_num; omega))
    obtain ⟨less, division, sign⟩ := signedDivision_spec (by decide) hd fits
    refine ⟨t, hexec, ?_⟩
    rw [ax, dx]
    exact ⟨less, division, sign, frame⟩

/-- Settles O23: the model's tests for a fault are the complement of a quotient that fits; at the smallest quotient the
parameter decides. -/
theorem divideErrorEntersTypeZero : Obligations.DivideErrorEntersTypeZero := by
  unfold Obligations.DivideErrorEntersTypeZero
  intro rm8 rm16 s
  refine ⟨?_, fun h => exec_divideError8 (congrArg Host.Outcome.next (if_pos h)),
    fun h => exec_divideError16 (congrArg Host.Outcome.next (if_pos h)),
    fun h => exec_divideError8 (exec_idiv_rm8_error (idivFaults_of_not_fits (h.imp_right fun range => ?_))),
    fun h => exec_divideError16 (exec_idiv_rm16_error (idivFaults_of_not_fits (h.imp_right fun range => ?_))),
    fun hd hmin => ?_, fun hd hmin => ?_⟩
  · unfold State.faultReturnIp
    split
    · exact .inl rfl
    · exact .inr rfl
  · rw [Bool.eq_false_iff, Ne, fitsSigned_byte_iff]; omega
  · rw [Bool.eq_false_iff, Ne, fitsSigned_word_iff]; omega
  · have fits := (fitsSigned_byte_iff _).mpr ⟨hmin.ge, by omega⟩
    have faults := idivFaults_of_min hd fits (w := 8) hmin
    split
    next traps => exact exec_divideError8 (exec_idiv_rm8_error (faults.trans traps))
    next completes =>
      obtain ⟨t, hexec, al, ah, hcontrol, frame⟩ := exec_idiv_rm8 (faults.trans (Bool.eq_false_iff.mpr completes))
      obtain ⟨-, division, -⟩ := signedDivision_spec (by decide) hd fits
      rw [← al, ← ah] at division
      have quotient : (t.reg8 .al).toInt = -128 := by rw [al, toInt_ofInt_of_fits (by decide) fits, hmin]
      exact ⟨t, t.flags, hexec, hcontrol, quotient, quotient ▸ division, rfl, frame⟩
  · have fits := (fitsSigned_word_iff _).mpr ⟨hmin.ge, by omega⟩
    have faults := idivFaults_of_min hd fits (w := 16) hmin
    split
    next traps => exact exec_divideError16 (exec_idiv_rm16_error (faults.trans traps))
    next completes =>
      obtain ⟨t, hexec, ax, dx, hcontrol, frame⟩ := exec_idiv_rm16 (faults.trans (Bool.eq_false_iff.mpr completes))
      obtain ⟨-, division, -⟩ := signedDivision_spec (by decide) hd fits
      rw [← ax, ← dx] at division
      have quotient : (t.reg .ax).toInt = -32768 := by rw [ax, toInt_ofInt_of_fits (by decide) fits, hmin]
      exact ⟨t, t.flags, hexec, hcontrol, quotient, quotient ▸ division, rfl, frame⟩

end Sys2Proof.Machine
end

section
/-! PROOF. The family of 41_logic_shift.md: the bitwise operations; then the loops of the shifts and rotates, each in closed
form for any number of turns, and what the instructions make of them. -/

namespace Sys2Proof.Machine

/-! ### Bitwise operations -/

/-- An instruction that runs a two-operand form over a bitwise operation `g`. -/
theorem exec_logic_spec {g : (w : Nat) → BitVec w → BitVec w → BitVec w} {i : Instr} {f : AluForm} {s : State}
    (hi : exec i s = .next (runAlu (aluLogic g) f s)) :
    match AluForm.operands f s with
    | .byte d a b =>
      ∃ t, exec i s = .next t ∧ s.puts8 t d (g 8 a b) ∧ s.flags.afterLogic t.flags (g 8 a b) ∧ s.goesOn t
    | .word d a b =>
      ∃ t, exec i s = .next t ∧ s.puts16 t d (g 16 a b) ∧ s.flags.afterLogic t.flags (g 16 a b) ∧ s.goesOn t := by
  obtain ⟨goesOn, run⟩ := runAlu_spec (aluLogic g) f s (fun _ _ _ => s.agrees_setFlags_drawn _ 1)
    (fun _ _ _ => ⟨rfl, rfl, rfl⟩)
  cases ho : AluForm.operands f s with
  | byte d a b =>
    rw [ho] at run
    obtain ⟨puts, flags⟩ := run
    exact ⟨_, hi, puts, flags ▸ logicFlags_afterLogic s.flags (g 8 a b) (s.freeBit 4), goesOn⟩
  | word d a b =>
    rw [ho] at run
    obtain ⟨puts, flags⟩ := run
    exact ⟨_, hi, puts, flags ▸ logicFlags_afterLogic s.flags (g 16 a b) (s.freeBit 4), goesOn⟩

/-- Settles O24: the three run their form over `logic_N`. -/
theorem andOrXorResults : Obligations.AndOrXorResults := by
  unfold Obligations.AndOrXorResults
  intro f s
  have andSpec := exec_logic_spec (i := .and f) (s := s) rfl
  have orSpec := exec_logic_spec (i := .or f) (s := s) rfl
  have xorSpec := exec_logic_spec (i := .xor f) (s := s) rfl
  simp only [List.forall_mem_cons, List.not_mem_nil, false_imp_iff, implies_true, and_true]
  cases ho : AluForm.operands f s with
  | byte d a b => rw [ho] at andSpec orSpec xorSpec; exact ⟨andSpec, orSpec, xorSpec⟩
  | word d a b => rw [ho] at andSpec orSpec xorSpec; exact ⟨andSpec, orSpec, xorSpec⟩

/-- TEST changes the flags, to those of the bitwise and, and takes a free value. -/
theorem runTest_aluAnd (g : TestForm) (s : State) :
    ∃ p, runTest aluAnd g s = (s.setFlags p).drawn 1 ∧
      match TestForm.operands g s with
      | .byte _ a b => s.flags.afterLogic p (a &&& b)
      | .word _ a b => s.flags.afterLogic p (a &&& b) := by
  have run := runTest_spec aluAnd g s
  cases ho : TestForm.operands g s with
  | byte d a b =>
    rw [ho] at run
    exact ⟨_, run, logicFlags_afterLogic s.flags (a &&& b) (s.freeBit 4)⟩
  | word d a b =>
    rw [ho] at run
    exact ⟨_, run, logicFlags_afterLogic s.flags (a &&& b) (s.freeBit 4)⟩

/-- Settles O25: TEST's state is the old one with other flags; NOT posts no flags at all. -/
theorem testAndNotResults : Obligations.TestAndNotResults := by
  unfold Obligations.TestAndNotResults
  intro g f s
  refine ⟨?_, ?_⟩
  · obtain ⟨p, run, flags⟩ := runTest_aluAnd g s
    exact ⟨(s.setFlags p).drawn 1, congrArg Host.Outcome.next run, State.agrees_keeps (s.agrees_setFlags_drawn p 1),
      ⟨rfl, rfl, rfl⟩, flags⟩
  · obtain ⟨goesOn, run⟩ := runUnary_spec (fun _ a s => (~~~a, s)) f s (fun _ _ => s.agrees_refl)
      (fun _ _ => ⟨rfl, rfl, rfl⟩)
    cases ho : UnaryForm.operand f s with
    | byte d a =>
      rw [ho] at run
      obtain ⟨puts, flags⟩ := run
      exact ⟨_, rfl, puts, flags, goesOn⟩
    | word d a =>
      rw [ho] at run
      obtain ⟨puts, flags⟩ := run
      exact ⟨_, rfl, puts, flags, goesOn⟩

/-! ### The loop of a shift or rotate -/

/-- A sequence each of whose members is a turn after the one before. -/
theorem repeatTimes_eq_of_step {α : Type} {f : α → α} {x : Nat → α} {x₀ : α} (h₀ : x 0 = x₀)
    (h : ∀ n, f (x n) = x (n + 1)) (n : Nat) : repeatTimes n f x₀ = x n := by
  induction n with
  | zero => exact h₀.symm
  | succ n ih => rw [repeatTimes_succ, ih, h]

/-- A loop of turns that do not look at CF: `d` is the operand after each turn, `out` the bit the turn puts into CF. -/
theorem turned_eq_of_turn {w : Nat} {turn : Turn w → Turn w} {a : BitVec w} {d : Nat → BitVec w} {out : Nat → Bool}
    (h₀ : d 0 = a) (h : ∀ n c, turn (d n, c) = (d (n + 1), out (n + 1))) (n : Nat) (s : State) :
    turned turn n a s = (d n, if n = 0 then s.flags.CF else out n) :=
  repeatTimes_eq_of_step (x := fun n => (d n, if n = 0 then s.flags.CF else out n))
    (congrArg (·, s.flags.CF) h₀) (fun n => h n _) n

/-! ### The bits a turn brings in -/

theorem getLsbD_lowBit {w : Nat} (hw : 0 < w) (c : Bool) (i : Nat) :
    (lowBit w c).getLsbD i = (decide (i = 0) && c) := by
  cases c <;> simp [lowBit, hw, BitVec.getLsbD_one]

theorem getLsbD_highBit {w : Nat} (hw : 0 < w) (c : Bool) (i : Nat) :
    (highBit w c).getLsbD i = (decide (i + 1 = w) && c) := by
  cases c with
  | false => simp [highBit]
  | true =>
    simp only [highBit, BitVec.getLsbD_twoPow, if_true, Bool.and_true]
    rw [← Bool.decide_and, decide_eq_decide]
    omega

/-! ### Rotations by one -/

section
variable {w : Nat} (hw : 1 < w) (x : BitVec w)
include hw

theorem getLsbD_rotateLeft_one (i : Nat) :
    (x.rotateLeft 1).getLsbD i = if i = 0 then x.msb else decide (i < w) && x.getLsbD (i - 1) := by
  rw [BitVec.getLsbD_rotateLeft, Nat.mod_eq_of_lt hw]
  by_cases hi : i = 0
  · simp [hi, BitVec.msb_eq_getLsbD_last]
  · simp [hi]

theorem getLsbD_rotateRight_one (i : Nat) :
    (x.rotateRight 1).getLsbD i = if i + 1 = w then x.getLsbD 0 else x.getLsbD (i + 1) := by
  rw [BitVec.getLsbD_rotateRight, Nat.mod_eq_of_lt hw]
  rcases lt_trichotomy (i + 1) w with hi | hi | hi
  · simp [show i < w - 1 by omega, hi.ne, Nat.add_comm]
  · simp [← hi]
  · simp [show ¬ i < w - 1 by omega, show ¬ i < w by omega, hi.ne', BitVec.getLsbD_of_ge x (i + 1) (by omega)]

end

theorem rotateLeft_succ {w : Nat} (x : BitVec w) (n : Nat) : (x.rotateLeft n).rotateLeft 1 = x.rotateLeft (n + 1) := by
  apply BitVec.eq_of_getMsbD_eq
  intro i hi
  simp [BitVec.getMsbD_rotateLeft, hi, Nat.mod_lt _ (Nat.zero_lt_of_lt hi), Nat.add_assoc]

/-- A rotation to the right, like `BitVec.getMsbD_rotateLeft`: bit `i` is the one `r` places above, round the ring. -/
theorem getLsbD_rotateRight_mod {w i : Nat} (x : BitVec w) (r : Nat) (hi : i < w) :
    (x.rotateRight r).getLsbD i = x.getLsbD ((r + i) % w) := by
  have hr := Nat.mod_lt r (Nat.zero_lt_of_lt hi)
  rw [BitVec.getLsbD_rotateRight, ← Nat.mod_add_mod]
  by_cases h : i < w - r % w
  · simp [h, Nat.mod_eq_of_lt (show r % w + i < w by omega)]
  · have wraps : (r % w + i) % w = i - (w - r % w) := by
      rw [Nat.mod_eq_sub_mod (by omega), Nat.mod_eq_of_lt (by omega)]
      omega
    simp [h, hi, wraps]

theorem rotateRight_succ {w : Nat} (x : BitVec w) (n : Nat) :
    (x.rotateRight n).rotateRight 1 = x.rotateRight (n + 1) := by
  apply BitVec.eq_of_getLsbD_eq
  intro i hi
  have hw := Nat.zero_lt_of_lt hi
  rw [getLsbD_rotateRight_mod _ _ hi, getLsbD_rotateRight_mod _ _ (Nat.mod_lt _ hw), getLsbD_rotateRight_mod _ _ hi]
  simp [Nat.add_assoc]

theorem rotateLeft_zero {w : Nat} (x : BitVec w) : x.rotateLeft 0 = x := by
  apply BitVec.eq_of_getMsbD_eq
  intro i hi
  simp [BitVec.getMsbD_rotateLeft, hi, Nat.mod_eq_of_lt]

theorem rotateRight_zero {w : Nat} (x : BitVec w) : x.rotateRight 0 = x := by
  apply BitVec.eq_of_getLsbD_eq
  intro i hi
  rw [getLsbD_rotateRight_mod _ _ hi, Nat.zero_add, Nat.mod_eq_of_lt hi]

/-! ### One turn of each loop -/

section
variable {w : Nat} (hw : 1 < w)
include hw

theorem rolTurn_eq (x : BitVec w) (c : Bool) :
    rolTurn w (x, c) = (x.rotateLeft 1, (x.rotateLeft 1).getLsbD 0) := by
  refine Prod.ext (BitVec.eq_of_getLsbD_eq fun i hi => ?_) (getLsbD_rotateLeft_one hw x 0).symm
  by_cases h : i = 0 <;>
    simp [rolTurn, getLsbD_rotateLeft_one hw, getLsbD_lowBit (Nat.zero_lt_of_lt hw), h, hi, -BitVec.getLsbD_eq_getElem]

theorem rorTurn_eq (x : BitVec w) (c : Bool) :
    rorTurn w (x, c) = (x.rotateRight 1, (x.rotateRight 1).msb) := by
  refine Prod.ext (BitVec.eq_of_getLsbD_eq fun i hi => ?_) ?_
  · by_cases h : i + 1 = w <;>
      simp [rorTurn, getLsbD_rotateRight_one hw, getLsbD_highBit (Nat.zero_lt_of_lt hw), h, Nat.add_comm 1,
        -BitVec.getLsbD_eq_getElem]
  · simp [rorTurn, BitVec.msb_eq_getLsbD_last, getLsbD_rotateRight_one hw, Nat.sub_add_cancel hw.le,
      -BitVec.getLsbD_eq_getElem]

end

theorem shlTurn_eq {w : Nat} (a : BitVec w) (n : Nat) (c : Bool) :
    shlTurn w (a <<< n, c) = (a <<< (n + 1), (a <<< n).msb) :=
  Prod.ext (BitVec.shiftLeft_add a n 1).symm rfl

theorem shrTurn_eq {w : Nat} (a : BitVec w) (n : Nat) (c : Bool) :
    shrTurn w (a >>> n, c) = (a >>> (n + 1), (a >>> n).getLsbD 0) :=
  Prod.ext (BitVec.shiftRight_add a n 1).symm rfl

/-- Shifting right by one with the sign bit brought in. -/
theorem ushiftRight_or_highBit_msb {w : Nat} (hw : 0 < w) (x : BitVec w) :
    (x >>> 1) ||| highBit w x.msb = x.sshiftRight 1 := by
  apply BitVec.eq_of_getLsbD_eq
  intro i hi
  have inRange : ¬ w ≤ i := hi.not_ge
  by_cases h : i + 1 = w
  · simp [getLsbD_highBit hw, BitVec.getLsbD_sshiftRight, inRange, h, Nat.add_comm 1, -BitVec.getLsbD_eq_getElem]
  · simp [getLsbD_highBit hw, BitVec.getLsbD_sshiftRight, inRange, h, Nat.add_comm 1, show i + 1 < w by omega,
      -BitVec.getLsbD_eq_getElem]

theorem sarTurn_eq {w : Nat} (hw : 0 < w) (a : BitVec w) (n : Nat) (c : Bool) :
    sarTurn w (a.sshiftRight n, c) = (a.sshiftRight (n + 1), (a.sshiftRight n).getLsbD 0) :=
  Prod.ext ((ushiftRight_or_highBit_msb hw _).trans BitVec.sshiftRight_add.symm) rfl

/-! ### The ring of CF and the operand -/

/-- The operand and CF that a ring of N + 1 bits holds: CF is its highest bit. -/
def Turn.ofRing {w : Nat} (r : BitVec (w + 1)) : Turn w := (r.setWidth w, r.msb)

theorem Turn.ofRing_cons {w : Nat} (c : Bool) (a : BitVec w) : Turn.ofRing (BitVec.cons c a) = (a, c) := by
  simp [Turn.ofRing]

theorem rclTurn_ofRing {w : Nat} (hw : 0 < w) (r : BitVec (w + 1)) :
    rclTurn w (Turn.ofRing r) = Turn.ofRing (r.rotateLeft 1) := by
  refine Prod.ext (BitVec.eq_of_getLsbD_eq fun i hi => ?_) ?_
  · by_cases h : i = 0
    · simp [rclTurn, Turn.ofRing, getLsbD_rotateLeft_one (Nat.succ_lt_succ hw), getLsbD_lowBit hw, h, hw,
        -BitVec.getLsbD_eq_getElem]
    · simp [rclTurn, Turn.ofRing, getLsbD_rotateLeft_one (Nat.succ_lt_succ hw), getLsbD_lowBit hw, h, hi, hi.le,
        show i - 1 < w by omega, -BitVec.getLsbD_eq_getElem]
  · simp [rclTurn, Turn.ofRing, BitVec.msb_eq_getLsbD_last, getLsbD_rotateLeft_one (Nat.succ_lt_succ hw), hw, hw.ne',
      -BitVec.getLsbD_eq_getElem]

theorem rcrTurn_ofRing {w : Nat} (hw : 0 < w) (r : BitVec (w + 1)) :
    rcrTurn w (Turn.ofRing r) = Turn.ofRing (r.rotateRight 1) := by
  refine Prod.ext (BitVec.eq_of_getLsbD_eq fun i hi => ?_) ?_
  · by_cases h : i + 1 = w
    · simp [rcrTurn, Turn.ofRing, getLsbD_rotateRight_one (Nat.succ_lt_succ hw), getLsbD_highBit hw, h, hi,
        Nat.add_comm 1, BitVec.msb_eq_getLsbD_last, -BitVec.getLsbD_eq_getElem]
    · simp [rcrTurn, Turn.ofRing, getLsbD_rotateRight_one (Nat.succ_lt_succ hw), getLsbD_highBit hw, h, hi, hi.ne,
        Nat.add_comm 1, show i + 1 < w by omega, -BitVec.getLsbD_eq_getElem]
  · simp [rcrTurn, Turn.ofRing, BitVec.msb_eq_getLsbD_last, getLsbD_rotateRight_one (Nat.succ_lt_succ hw), hw,
      -BitVec.getLsbD_eq_getElem]

/-- A loop that turns the ring of CF and the operand: `ring` is the ring after each turn. -/
theorem turned_eq_of_ring {w : Nat} {turn : Turn w → Turn w} {a : BitVec w} {s : State} {ring : Nat → BitVec (w + 1)}
    (h₀ : ring 0 = BitVec.cons s.flags.CF a) (h : ∀ n, turn (Turn.ofRing (ring n)) = Turn.ofRing (ring (n + 1)))
    (n : Nat) :
    turned turn n a s = ((ring n).setWidth w, if n = 0 then s.flags.CF else (ring n).msb) := by
  have loop : turned turn n a s = Turn.ofRing (ring n) :=
    repeatTimes_eq_of_step (x := fun n => Turn.ofRing (ring n)) (by rw [h₀, Turn.ofRing_cons]) h n
  rw [loop]
  refine Prod.ext rfl ?_
  split
  next zero => rw [zero, h₀, Turn.ofRing_cons]
  next => rfl

theorem msb_setWidth_ring {w : Nat} (hw : 1 < w) (r : BitVec (w + 1)) : (r.setWidth w).msb = r.getLsbD (w - 1) := by
  simp [BitVec.msb_eq_getLsbD_last, Nat.zero_lt_of_lt hw, -BitVec.getLsbD_eq_getElem]

theorem getLsbD_setWidth_ring {w : Nat} (hw : 1 < w) (r : BitVec (w + 1)) :
    (r.setWidth w).getLsbD (w - 2) = r.getLsbD (w - 2) := by
  simp [show w - 2 < w by omega, -BitVec.getLsbD_eq_getElem]

/-! ### The whole loop -/

section
variable {w : Nat} (hw : 1 < w) (n : Nat) (a : BitVec w) (s : State)

include hw in
theorem turned_rol :
    turned (rolTurn w) n a s = (a.rotateLeft n, if n = 0 then s.flags.CF else (a.rotateLeft n).getLsbD 0) :=
  turned_eq_of_turn (out := fun n => (a.rotateLeft n).getLsbD 0) (rotateLeft_zero a)
    (fun _ _ => by rw [rolTurn_eq hw, rotateLeft_succ]) n s

include hw in
theorem turned_ror :
    turned (rorTurn w) n a s = (a.rotateRight n, if n = 0 then s.flags.CF else (a.rotateRight n).msb) :=
  turned_eq_of_turn (out := fun n => (a.rotateRight n).msb) (rotateRight_zero a)
    (fun _ _ => by rw [rorTurn_eq hw, rotateRight_succ]) n s

theorem turned_shl :
    turned (shlTurn w) n a s = (a <<< n, if n = 0 then s.flags.CF else (a <<< (n - 1)).msb) :=
  turned_eq_of_turn (out := fun n => (a <<< (n - 1)).msb) (BitVec.shiftLeft_zero a) (shlTurn_eq a) n s

theorem turned_shr :
    turned (shrTurn w) n a s = (a >>> n, if n = 0 then s.flags.CF else (a >>> (n - 1)).getLsbD 0) :=
  turned_eq_of_turn (out := fun n => (a >>> (n - 1)).getLsbD 0) (BitVec.ushiftRight_zero a) (shrTurn_eq a) n s

include hw in
theorem turned_sar :
    turned (sarTurn w) n a s =
      (a.sshiftRight n, if n = 0 then s.flags.CF else (a.sshiftRight (n - 1)).getLsbD 0) :=
  turned_eq_of_turn (out := fun n => (a.sshiftRight (n - 1)).getLsbD 0) BitVec.sshiftRight_zero
    (sarTurn_eq (Nat.zero_lt_of_lt hw) a) n s

include hw in
theorem turned_rcl :
    turned (rclTurn w) n a s =
      (((BitVec.cons s.flags.CF a).rotateLeft n).setWidth w,
        if n = 0 then s.flags.CF else ((BitVec.cons s.flags.CF a).rotateLeft n).msb) :=
  turned_eq_of_ring (ring := (BitVec.cons s.flags.CF a).rotateLeft) (rotateLeft_zero _)
    (fun _ => by rw [rclTurn_ofRing (Nat.zero_lt_of_lt hw), rotateLeft_succ]) n

include hw in
theorem turned_rcr :
    turned (rcrTurn w) n a s =
      (((BitVec.cons s.flags.CF a).rotateRight n).setWidth w,
        if n = 0 then s.flags.CF else ((BitVec.cons s.flags.CF a).rotateRight n).msb) :=
  turned_eq_of_ring (ring := (BitVec.cons s.flags.CF a).rotateRight) (rotateRight_zero _)
    (fun _ => by rw [rcrTurn_ofRing (Nat.zero_lt_of_lt hw), rotateRight_succ]) n

end

/-! ### Flags of a loop -/

theorem rotateFlags_afterRotate (f : Flags) (n : Nat) {w : Nat} {r : BitVec w} {cf o : Bool}
    {ofRule : Turn w → Bool} (hof : n = 1 → ofRule (r, cf) = o) (u : Word) :
    f.afterRotate (rotateFlags f n (r, if n = 0 then f.CF else cf) ofRule u) n cf o := by
  refine ⟨rfl, fun one => ?_, rfl, rfl, rfl, rfl, rfl, rfl, rfl⟩
  simpa [rotateFlags, one] using hof one

theorem shiftFlags_afterShift (f : Flags) (n : Nat) {w : Nat} (r : BitVec w) (cf o : Bool) (u : Word) :
    f.afterShift (shiftFlags f n (r, if n = 0 then f.CF else cf) o u) n r cf := by
  by_cases zero : n = 0
  · simp [zero, shiftFlags, Flags.afterShift, Flags.keepsControl]
  · simp only [zero, shiftFlags, if_false]
    exact ⟨by simp [zero], fun _ => Flags.szp_tellsResult f r, rfl, rfl, rfl⟩

theorem shiftFlags_OF (f : Flags) {n : Nat} (h : n ≠ 0) {w : Nat} (x : Turn w) (o : Bool) (u : Word) :
    (shiftFlags f n x o u).OF = o := by
  simp [shiftFlags, h]

/-- After one turn of SHR the high-order bit is clear and the one below it is the old sign. -/
theorem ofRight_ushiftRight_one {w : Nat} (hw : 1 < w) (a : BitVec w) (c : Bool) : ofRight (a >>> 1, c) = a.msb := by
  simp [ofRight, BitVec.msb_eq_getLsbD_last, show 1 + (w - 2) = w - 1 by omega,
    show 1 + (w - 1) = w by omega, -BitVec.getLsbD_eq_getElem]

/-- `effectiveCount_cases` in the words of R166. -/
theorem effectiveCount_spec (masked : Bool) (n : Byte) :
    if n.toNat ≤ 31 then effectiveCount masked n = n.toNat
    else effectiveCount masked n = n.toNat ∨ effectiveCount masked n = n.toNat % 32 := by
  rcases effectiveCount_cases masked n with ⟨small, h⟩ | ⟨large, h⟩
  · rwa [if_pos small]
  · rwa [if_neg large.not_ge]

/-! ### Running the forms -/

section
variable {i : Instr} {f : ShiftForm} {s : State} {n : Nat} {result : (w : Nat) → BitVec w → BitVec w}
  {carry overflow : (w : Nat) → BitVec w → Bool}

/-- An instruction that runs a form over a shift or rotate: the result and what is known of the flags, for either width. -/
theorem exec_shiftForm_spec {op : ShiftOp} (hi : exec i s = .next (runShift op f s))
    (hop : ∀ w n a, ∃ g, (op w n a s).2 = (s.setFlags g).drawn 1) {flags : (w : Nat) → BitVec w → Flags → Prop}
    (hn : s.turns (ShiftForm.count f) = n)
    (spec : ∀ {w} a, 1 < w → (op w n a s).1 = result w a ∧ flags w a (op w n a s).2.flags) :
    match ShiftForm.operand f s with
    | .byte d a => ∃ t, exec i s = .next t ∧ s.puts8 t d (result 8 a) ∧ s.goesOn t ∧ flags 8 a t.flags
    | .word d a => ∃ t, exec i s = .next t ∧ s.puts16 t d (result 16 a) ∧ s.goesOn t ∧ flags 16 a t.flags := by
  have agrees w n a : s.agrees (op w n a s).2 := by
    obtain ⟨g, h⟩ := hop w n a
    exact h ▸ s.agrees_setFlags_drawn g 1
  have goesOn w n a : s.goesOn (op w n a s).2 := by
    obtain ⟨g, h⟩ := hop w n a
    exact h ▸ ⟨rfl, rfl, rfl⟩
  obtain ⟨goes, run⟩ := runShift_spec op f s agrees goesOn
  rw [hn] at run
  cases ho : ShiftForm.operand f s with
  | byte d a =>
    rw [ho] at run
    obtain ⟨puts, hflags⟩ := run
    obtain ⟨res, flagsSpec⟩ := spec a (by decide : 1 < 8)
    exact ⟨_, hi, res ▸ puts, goes, hflags ▸ flagsSpec⟩
  | word d a =>
    rw [ho] at run
    obtain ⟨puts, hflags⟩ := run
    obtain ⟨res, flagsSpec⟩ := spec a (by decide : 1 < 16)
    exact ⟨_, hi, res ▸ puts, goes, hflags ▸ flagsSpec⟩

/-- An instruction that runs a form over a rotate whose loop is known. -/
theorem exec_rotate_spec {turn : (w : Nat) → Turn w → Turn w} {ofRule : (w : Nat) → Turn w → Bool}
    (hi : exec i s = .next (runShift (rotateOp turn ofRule) f s)) (hn : s.turns (ShiftForm.count f) = n)
    (loop : ∀ {w} a, 1 < w → turned (turn w) n a s = (result w a, if n = 0 then s.flags.CF else carry w a))
    (hof : ∀ {w} a, 1 < w → n = 1 → ofRule w (result w a, carry w a) = overflow w a) :
    match ShiftForm.operand f s with
    | .byte d a =>
      ∃ t, exec i s = .next t ∧ s.puts8 t d (result 8 a) ∧ s.goesOn t ∧
        s.flags.afterRotate t.flags n (carry 8 a) (overflow 8 a)
    | .word d a =>
      ∃ t, exec i s = .next t ∧ s.puts16 t d (result 16 a) ∧ s.goesOn t ∧
        s.flags.afterRotate t.flags n (carry 16 a) (overflow 16 a) :=
  exec_shiftForm_spec hi (fun _ _ _ => ⟨_, rfl⟩) hn
    (flags := fun w a g => s.flags.afterRotate g n (carry w a) (overflow w a)) fun a hw => by
      rw [rotateOp, loop a hw]
      exact ⟨rfl, rotateFlags_afterRotate s.flags n (hof a hw) s.free⟩

/-- An instruction that runs a form over a shift whose loop is known; `P` is the condition under which OF is defined. -/
theorem exec_shift_spec {turn : (w : Nat) → Turn w → Turn w} {ofValue : (w : Nat) → Nat → Turn w → Bool → Bool}
    (hi : exec i s = .next (runShift (shiftOp turn ofValue) f s)) (hn : s.turns (ShiftForm.count f) = n)
    (loop : ∀ {w} a, 1 < w → turned (turn w) n a s = (result w a, if n = 0 then s.flags.CF else carry w a))
    {P : Prop} (nonzero : P → n ≠ 0)
    (hof : ∀ {w} a, 1 < w → P → ofValue w n (result w a, carry w a) (s.freeBit 11) = overflow w a) :
    match ShiftForm.operand f s with
    | .byte d a =>
      ∃ t, exec i s = .next t ∧ s.puts8 t d (result 8 a) ∧ s.goesOn t ∧
        s.flags.afterShift t.flags n (result 8 a) (carry 8 a) ∧ (P → t.flags.OF = overflow 8 a)
    | .word d a =>
      ∃ t, exec i s = .next t ∧ s.puts16 t d (result 16 a) ∧ s.goesOn t ∧
        s.flags.afterShift t.flags n (result 16 a) (carry 16 a) ∧ (P → t.flags.OF = overflow 16 a) :=
  exec_shiftForm_spec hi (fun _ _ _ => ⟨_, rfl⟩) hn
    (flags := fun w a g => s.flags.afterShift g n (result w a) (carry w a) ∧ (P → g.OF = overflow w a))
    fun a hw => by
      rw [shiftOp, loop a hw]
      refine ⟨rfl, shiftFlags_afterShift s.flags n _ _ _ s.free, fun p => ?_⟩
      rw [State.drawn_flags, State.setFlags_flags, shiftFlags_OF s.flags (nonzero p), if_neg (nonzero p), hof a hw p]

end

/-- Settles O26: ROL and ROR turn the operand by one bit, `n` times; the bit that came round is the low or the high one of
the result. -/
theorem rotateResults : Obligations.RotateResults := by
  unfold Obligations.RotateResults
  intro f s n
  have rol := exec_rotate_spec (i := .rol f) (s := s) (n := n) rfl rfl
    (result := fun _ a => a.rotateLeft n) (carry := fun _ a => (a.rotateLeft n).getLsbD 0)
    (fun a hw => turned_rol hw n a s) (fun _ _ _ => rfl)
  have ror := exec_rotate_spec (i := .ror f) (s := s) (n := n) rfl rfl
    (result := fun _ a => a.rotateRight n) (carry := fun _ a => (a.rotateRight n).msb)
    (fun a hw => turned_ror hw n a s) (fun _ _ _ => rfl)
  cases ho : ShiftForm.operand f s with
  | byte d a => rw [ho] at rol ror; exact ⟨rol, ror⟩
  | word d a => rw [ho] at rol ror; exact ⟨rol, ror⟩

/-- Settles O27: RCL and RCR turn the ring by one bit, `n` times; CF is its highest bit, the operand the others. -/
theorem rotateThroughCarryResults : Obligations.RotateThroughCarryResults := by
  unfold Obligations.RotateThroughCarryResults
  intro f s n
  have rcl := exec_rotate_spec (i := .rcl f) (s := s) (n := n) rfl rfl
    (result := fun w a => ((BitVec.cons s.flags.CF a).rotateLeft n).setWidth w)
    (carry := fun _ a => ((BitVec.cons s.flags.CF a).rotateLeft n).msb)
    (overflow := fun w a => ((BitVec.cons s.flags.CF a).rotateLeft n).getLsbD (w - 1) !=
      ((BitVec.cons s.flags.CF a).rotateLeft n).msb)
    (fun a hw => turned_rcl hw n a s) (fun _ hw _ => by rw [ofLeft, msb_setWidth_ring hw])
  have rcr := exec_rotate_spec (i := .rcr f) (s := s) (n := n) rfl rfl
    (result := fun w a => ((BitVec.cons s.flags.CF a).rotateRight n).setWidth w)
    (carry := fun _ a => ((BitVec.cons s.flags.CF a).rotateRight n).msb)
    (overflow := fun w a => ((BitVec.cons s.flags.CF a).rotateRight n).getLsbD (w - 1) !=
      ((BitVec.cons s.flags.CF a).rotateRight n).getLsbD (w - 2))
    (fun a hw => turned_rcr hw n a s)
    (fun _ hw _ => by rw [ofRight, msb_setWidth_ring hw, getLsbD_setWidth_ring hw])
  cases ho : ShiftForm.operand f s with
  | byte d a => rw [ho] at rcl rcr; exact ⟨rcl, rcr⟩
  | word d a => rw [ho] at rcl rcr; exact ⟨rcl, rcr⟩

/-- Settles O28: each shift moves the operand by one bit, `n` times; CF gets the bit the last turn drops. -/
theorem shiftResults : Obligations.ShiftResults := by
  unfold Obligations.ShiftResults
  intro f s
  refine ⟨?_, ?_⟩
  · cases hc : ShiftForm.count f with
    | one => simp [State.turns]
    | imm c => exact effectiveCount_spec Config.shiftCountMaskedTo5 c
    | cl => exact effectiveCount_spec Config.shiftCountMaskedTo5 (s.reg8 .cl)
  intro n
  have shl := exec_shift_spec (i := .shl f) (s := s) (n := n) rfl rfl (result := fun _ a => a <<< n)
    (carry := fun _ a => (a <<< (n - 1)).msb) (overflow := fun _ a => a.msb != (a <<< n).msb)
    (fun a _ => turned_shl n a s) (P := n = 1) (by omega) (fun a _ one => by simp [one, ofLeft, bne_comm])
  have shr := exec_shift_spec (i := .shr f) (s := s) (n := n) rfl rfl (result := fun _ a => a >>> n)
    (carry := fun _ a => (a >>> (n - 1)).getLsbD 0) (overflow := fun _ a => a.msb)
    (fun a _ => turned_shr n a s) (P := n = 1) (by omega)
    (fun a hw one => by rw [one, if_pos rfl, ofRight_ushiftRight_one hw])
  have sar := exec_shift_spec (i := .sar f) (s := s) (n := n) rfl rfl (result := fun _ a => a.sshiftRight n)
    (carry := fun _ a => (a.sshiftRight (n - 1)).getLsbD 0) (overflow := fun _ _ => false)
    (fun a hw => turned_sar hw n a s) (P := n ≠ 0) id (fun _ _ _ => rfl)
  cases ho : ShiftForm.operand f s with
  | byte d a => rw [ho] at shl shr sar; exact ⟨shl, shr, sar⟩
  | word d a => rw [ho] at shl shr sar; exact ⟨shl, shr, sar⟩

end Sys2Proof.Machine
end

section
/-! PROOF. The family of 42_control_transfer.md. First the frame of each update a transfer is made of, and the word a push
leaves on the stack; then jumps, calls, returns and interrupts, each from what its shared operation does; last, that a return
undoes the transfer behind which it stands. -/

namespace Sys2Proof.Machine

/-! ### Frames of the updates -/

section
variable {s t : State} {regs : List Reg16} {segs : List SegReg} {bytes : List Nat}

theorem State.keeps_self (s : State) (regs : List Reg16) (segs : List SegReg) : s.keeps s regs segs [] := by
  simp [State.keeps]

theorem State.keeps_setReg (h : s.keeps t regs segs bytes) {r : Reg16} (hr : r ∈ regs) (v : Word) :
    s.keeps (t.setReg r v) regs segs bytes := by
  obtain ⟨hregs, hrest⟩ := h
  refine ⟨fun q hq => ?_, hrest⟩
  rw [← hregs q hq, State.reg, State.setReg_regs, Regs.get_set, if_neg (ne_of_mem_of_not_mem hr hq).symm]
  rfl

theorem State.keeps_setSeg (h : s.keeps t regs segs bytes) {r : SegReg} (hr : r ∈ segs) (v : Word) :
    s.keeps (t.setSeg r v) regs segs bytes := by
  obtain ⟨hregs, hsegs, hrest⟩ := h
  refine ⟨hregs, fun q hq => ?_, hrest⟩
  rw [← hsegs q hq, State.seg, State.setSeg_segs, Segs.get_set, if_neg (ne_of_mem_of_not_mem hr hq).symm]
  rfl

theorem State.keeps_setFlags (h : s.keeps t regs segs bytes) (f : Flags) : s.keeps (t.setFlags f) regs segs bytes := h

theorem State.keeps_jump (h : s.keeps t regs segs bytes) (o : Word) : s.keeps (t.jump o) regs segs bytes := h

theorem State.keeps_jumpFar (h : s.keeps t regs segs bytes) (hcs : .cs ∈ segs) (b o : Word) :
    s.keeps (t.jumpFar b o) regs segs bytes :=
  State.keeps_jump (State.keeps_setSeg h hcs b) o

theorem State.keeps_jumpIf (h : s.keeps t regs segs bytes) (c : Bool) (d : Byte) :
    s.keeps (t.jumpIf c d) regs segs bytes := by
  cases c <;> exact h

theorem State.keeps_dropTop (h : s.keeps t regs segs bytes) (hsp : .sp ∈ regs) : s.keeps t.dropTop regs segs bytes :=
  State.keeps_setReg h hsp _

/-- A word store adds its two bytes to those that change and are recorded. -/
theorem State.keeps_write16 (h : s.keeps t regs segs bytes) (r : SegReg) (o v : Word) :
    s.keeps (t.write16 r o v) regs segs (bytes ++ t.wordBytes r o) := by
  obtain ⟨hregs, hsegs, hmem, hthis, hhalted, hwaiting, hsti, hinhibit, htrap, hpre, hlines, htext, hexecuted, hstored⟩ := h
  refine ⟨hregs, hsegs, fun a ha => ?_, hthis, hhalted, hwaiting, hsti, hinhibit, htrap, hpre, hlines, htext, hexecuted,
    fun a => ?_⟩
  · simp only [State.wordBytes, List.mem_append, List.mem_cons, List.not_mem_nil, or_false, not_or] at ha
    obtain ⟨hbytes, hlow, hhigh⟩ := ha
    exact (Memory.read_write16_ne _ _ _ _ hlow hhigh).trans (hmem a hbytes)
  · simp only [State.write16_stored, mem_recorded, hstored, State.wordBytes, List.mem_append, List.mem_cons,
      List.not_mem_nil, or_false]
    tauto

theorem State.keeps_push16 (h : s.keeps t regs segs bytes) (hsp : .sp ∈ regs) (v : Word) :
    s.keeps (t.push16 v) regs segs (bytes ++ t.wordBytes .ss (t.reg .sp - 2)) :=
  State.keeps_write16 (State.keeps_setReg h hsp _) .ss _ v

end

/-! ### Words on the stack -/

/-- The word pushed lies at the new SS:SP. -/
theorem State.push16_top (s : State) (v : Word) : (s.push16 v).mem.read16 (s.seg .ss) (s.reg .sp - 2) = v :=
  Memory.read16_write16_same _ _ _ _

/-- A word stored just below another leaves it as it is. -/
theorem Memory.read16_write16_above (m : Memory) (b o v : Word) :
    (m.write16 b (o - 2) v).read16 b o = m.read16 b o :=
  Memory.read16_write16_ne _ _ _ _ _ (by bv_omega) (by bv_omega) (by bv_omega)

/-- A push leaves the word that was on top where it is. -/
theorem State.push16_below (s : State) (v : Word) :
    (s.push16 v).mem.read16 (s.seg .ss) (s.reg .sp) = s.mem.read16 (s.seg .ss) (s.reg .sp) :=
  Memory.read16_write16_above _ _ _ _

/-! ### Conditional jumps -/

theorem State.jumpIf_queue (s : State) (c : Bool) (d : Byte) : (s.jumpIf c d).queue = if c then [] else s.queue := by
  cases c <;> rfl

theorem State.jumpIf_regs (s : State) (c : Bool) (d : Byte) : (s.jumpIf c d).regs = s.regs := by
  cases c <;> rfl

theorem State.jumpIf_flags (s : State) (c : Bool) (d : Byte) : (s.jumpIf c d).flags = s.flags := by
  cases c <;> rfl

theorem State.jumpIf_bus (s : State) (c : Bool) (d : Byte) : (s.jumpIf c d).bus = s.bus := by
  cases c <;> rfl

/-- An instruction that is a jump on the condition `c`. -/
theorem exec_jumpIf_spec {i : Instr} {s : State} {c : Bool} {d : Byte} (hi : exec i s = .next (s.jumpIf c d)) :
    ∃ t, exec i s = .next t ∧ t.ip = (if c then s.ip + d.signExtend 16 else s.ip) ∧
      t.queue = (if c then [] else s.queue) ∧ t.flags = s.flags ∧ t.bus = s.bus ∧ s.keeps t [] [] [] :=
  ⟨_, hi, s.jumpIf_ip c d, s.jumpIf_queue c d, s.jumpIf_flags c d, s.jumpIf_bus c d,
    State.keeps_jumpIf (s.keeps_self [] []) c d⟩

/-- Settles O29: on each of the sixteen opcode bytes the decoder evaluates, and each meaning is a `jumpIf`. -/
theorem conditionalJumps : Obligations.ConditionalJumps := by
  unfold Obligations.ConditionalJumps
  intro d rest s
  simp only [List.forall_mem_cons, List.not_mem_nil, false_imp_iff, implies_true, and_true]
  refine ⟨?_, ?_, ?_, ?_, ?_, ?_, ?_, ?_, ?_, ?_, ?_, ?_, ?_, ?_, ?_, ?_⟩ <;> exact ⟨rfl, exec_jumpIf_spec rfl⟩

/-! ### Counted jumps -/

/-- A loop goes on while CX, lowered by 1, is not 0: unless it was 1. -/
theorem State.countDown_bne_zero (s : State) : (s.countDown.regs.cx != 0) = decide (s.reg .cx ≠ 1) := by
  have hcx : s.countDown.regs.cx = s.reg .cx - 1 := rfl
  rw [hcx, bne_eq_decide_ne, decide_eq_decide, ne_eq, sub_eq_zero]

/-- An instruction that counts down and then jumps while the count lasts and `z` holds. -/
theorem exec_loop_spec {i : Instr} {s : State} {z : Bool} {d : Byte}
    (hi : exec i s = .next (s.countDown.jumpIf (z && s.countDown.regs.cx != 0) d)) :
    ∃ t, exec i s = .next t ∧ t.reg .cx = s.reg .cx - 1 ∧
      t.ip = (if z = true ∧ s.reg .cx ≠ 1 then s.ip + d.signExtend 16 else s.ip) ∧
      t.queue = (if z = true ∧ s.reg .cx ≠ 1 then [] else s.queue) ∧ t.flags = s.flags ∧ t.bus = s.bus ∧
      s.keeps t [.cx] [] [] := by
  rw [s.countDown_bne_zero] at hi
  refine ⟨_, hi, congrArg Regs.cx (State.jumpIf_regs _ _ d), ?_, ?_, State.jumpIf_flags _ _ d, State.jumpIf_bus _ _ d,
    State.keeps_jumpIf (State.keeps_setReg (s.keeps_self [.cx] []) (.head _) _) _ d⟩
  · simp only [State.jumpIf_ip, Bool.and_eq_true, decide_eq_true_eq]; rfl
  · simp only [State.jumpIf_queue, Bool.and_eq_true, decide_eq_true_eq]; rfl

/-- Settles O31: JCXZ is a `jumpIf`; each loop is one on the lowered count. -/
theorem countedJumps : Obligations.CountedJumps := by
  unfold Obligations.CountedJumps
  intro d rest s
  have jcxz := exec_jumpIf_spec (i := .jcxz d) (s := s) rfl
  simp only [beq_iff_eq] at jcxz
  rw [List.forall_mem_cons, List.forall_mem_cons, List.forall_mem_singleton]
  exact ⟨⟨rfl, jcxz⟩, ⟨decode_encode (.loop d) rest rfl, exec_loop_spec rfl⟩,
    ⟨decode_encode (.loope d) rest rfl, exec_loop_spec rfl⟩, decode_encode (.loopne d) rest rfl, exec_loop_spec rfl⟩

/-! ### JMP -/

/-- Settles O32: a near jump is `jump`, a far one `jumpFar`. -/
theorem jumpTargets : Obligations.JumpTargets := by
  unfold Obligations.JumpTargets
  intro d disp o b rm m s
  simp only [List.forall_mem_cons, List.not_mem_nil, false_imp_iff, implies_true, and_true]
  have near (target : Word) : s.keeps (s.jump target) [] [] [] := State.keeps_jump (s.keeps_self [] []) target
  have far (b o : Word) : s.keeps (s.jumpFar b o) [] [.cs] [] :=
    State.keeps_jumpFar (s.keeps_self [] [.cs]) (.head _) b o
  exact ⟨⟨⟨_, rfl, rfl, rfl, rfl, rfl, near _⟩, ⟨_, rfl, rfl, rfl, rfl, rfl, near _⟩,
      _, rfl, rfl, rfl, rfl, rfl, near _⟩,
    ⟨_, rfl, rfl, rfl, rfl, rfl, rfl, far _ _⟩, _, rfl, rfl, rfl, rfl, rfl, rfl, far _ _⟩

/-! ### CALL -/

/-- What a near call does: the return offset on the stack, control at the target. -/
theorem State.callNear_spec (s : State) (target : Word) :
    let t := s.callNear target
    t.ip = target ∧ t.reg .sp = s.reg .sp - 2 ∧ t.mem.read16 (s.seg .ss) (s.reg .sp - 2) = s.ip ∧ t.queue = [] ∧
      t.flags = s.flags ∧ t.bus = s.bus ∧ s.keeps t [.sp] [] (s.wordBytes .ss (s.reg .sp - 2)) :=
  ⟨rfl, rfl, s.push16_top s.ip, rfl, rfl, rfl,
    State.keeps_jump (State.keeps_push16 (s.keeps_self [.sp] []) (.head _) s.ip) target⟩

theorem sub_two_sub_two (a : Word) : a - 2 - 2 = a - 4 := by bv_omega

/-- What a far call does: CS and the return offset on the stack, control at the target. -/
theorem State.callFar_spec (s : State) (b o : Word) :
    let t := s.callFar b o
    t.seg .cs = b ∧ t.ip = o ∧ t.reg .sp = s.reg .sp - 4 ∧ t.mem.read16 (s.seg .ss) (s.reg .sp - 2) = s.seg .cs ∧
      t.mem.read16 (s.seg .ss) (s.reg .sp - 4) = s.ip ∧ t.queue = [] ∧ t.flags = s.flags ∧ t.bus = s.bus ∧
      s.keeps t [.sp] [.cs] (s.wordBytes .ss (s.reg .sp - 2) ++ s.wordBytes .ss (s.reg .sp - 4)) := by
  rw [← sub_two_sub_two]
  have pushed : s.keeps ((s.push16 s.segs.cs).setSeg .cs b) [.sp] [.cs] (s.wordBytes .ss (s.reg .sp - 2)) :=
    State.keeps_setSeg (State.keeps_push16 (s.keeps_self [.sp] [.cs]) (.head _) s.segs.cs) (.head _) b
  exact ⟨rfl, rfl, rfl, (State.push16_below _ s.ip).trans (s.push16_top s.segs.cs), State.push16_top _ s.ip, rfl, rfl, rfl,
    State.keeps_jump (State.keeps_push16 pushed (.head _) s.ip) o⟩

/-- Settles O33: the direct and the indirect forms differ in the target only, which is read in the state before. -/
theorem callsSaveReturnAddress : Obligations.CallsSaveReturnAddress := by
  unfold Obligations.CallsSaveReturnAddress
  intro disp o b rm m s
  simp only [List.forall_mem_cons, List.not_mem_nil, false_imp_iff, implies_true, and_true]
  exact ⟨⟨⟨_, rfl, s.callNear_spec _⟩, _, rfl, s.callNear_spec _⟩,
    ⟨_, rfl, s.callFar_spec _ _⟩, _, rfl, s.callFar_spec _ _⟩

/-! ### RET -/

theorem State.discard_zero (s : State) : s.discard 0 = s := by
  simp [State.discard, State.setReg, Regs.set]

/-- A return without a pop value discards nothing. -/
theorem exec_ret (s : State) : exec .ret s = .next ((s.dropTop.jump s.top).discard 0) := by
  rw [State.discard_zero]; rfl

theorem exec_retFar (s : State) : exec .retFar s = .next (s.returnFar.discard 0) := by
  rw [State.discard_zero]; rfl

/-- An instruction that returns near and discards `n` bytes. -/
theorem exec_returnNear_spec {i : Instr} {s : State} {n : Word}
    (hi : exec i s = .next ((s.dropTop.jump s.top).discard n)) :
    ∃ t, exec i s = .next t ∧ t.ip = s.read16 .ss (s.reg .sp) ∧ t.reg .sp = s.reg .sp + 2 + n ∧ t.queue = [] ∧
      t.flags = s.flags ∧ t.bus = s.bus ∧ s.keeps t [.sp] [] [] :=
  ⟨_, hi, rfl, rfl, rfl, rfl, rfl,
    State.keeps_setReg (State.keeps_jump (State.keeps_dropTop (s.keeps_self [.sp] []) (.head _)) _) (.head _) _⟩

/-- An instruction that returns far and discards `n` bytes. -/
theorem exec_returnFar_spec {i : Instr} {s : State} {n : Word} (hi : exec i s = .next (s.returnFar.discard n)) :
    ∃ t, exec i s = .next t ∧ t.ip = s.read16 .ss (s.reg .sp) ∧ t.seg .cs = s.read16 .ss (s.reg .sp + 2) ∧
      t.reg .sp = s.reg .sp + 4 + n ∧ t.queue = [] ∧ t.flags = s.flags ∧ t.bus = s.bus ∧
      s.keeps t [.sp] [.cs] [] := by
  have hsp : s.reg .sp + 4 = s.reg .sp + 2 + 2 := by bv_omega
  rw [hsp]
  have popped : s.keeps s.dropTop.dropTop [.sp] [.cs] [] :=
    State.keeps_dropTop (State.keeps_dropTop (s.keeps_self [.sp] [.cs]) (.head _)) (.head _)
  exact ⟨_, hi, rfl, rfl, rfl, rfl, rfl, rfl,
    State.keeps_setReg (State.keeps_jumpFar popped (.head _) _ _) (.head _) _⟩

/-- Settles O34: the four returns, their pop value 0 where the encoding has none. -/
theorem returnsPopAddress : Obligations.ReturnsPopAddress := by
  unfold Obligations.ReturnsPopAddress
  intro n rest s
  simp only [List.forall_mem_cons, List.not_mem_nil, false_imp_iff, implies_true, and_true]
  exact ⟨⟨⟨rfl, exec_returnNear_spec (exec_ret s)⟩, decode_encode (.retPop n) rest rfl, exec_returnNear_spec rfl⟩,
    ⟨rfl, exec_returnFar_spec (exec_retFar s)⟩, decode_encode (.retFarPop n) rest rfl, exec_returnFar_spec rfl⟩

/-! ### Interrupts -/

/-- Settles O35: each enters the interrupt sequence with `next_ip` saved, INTO if OF lets it. -/
theorem softwareInterrupts : Obligations.SoftwareInterrupts := by
  unfold Obligations.SoftwareInterrupts
  intro n rest s
  refine ⟨rfl, rfl, rfl, ⟨_, rfl, s.interrupt_entered n s.ip []⟩, ⟨_, rfl, s.interrupt_entered 3 s.ip []⟩,
    _, rfl, ?_⟩
  split
  · exact s.interrupt_entered 4 s.ip []
  · rfl

/-- Settles O36: the index is out of bounds when it is not within them. -/
theorem boundChecksIndex : Obligations.BoundChecksIndex := by
  unfold Obligations.BoundChecksIndex
  intro r m s
  refine ⟨_, rfl, ?_⟩
  by_cases within : (s.read16 (s.segOf m) (s.ea m)).toInt ≤ (s.reg r).toInt ∧
      (s.reg r).toInt ≤ (s.read16 (s.segOf m) (s.ea m + 2)).toInt
  · rw [if_pos within]
    obtain ⟨lower, upper⟩ := within
    exact if_neg (not_or.mpr ⟨lower.not_gt, upper.not_gt⟩)
  · rw [if_neg within, if_pos]
    · exact s.interrupt_entered 5 s.faultReturnIp []
    · exact (not_and_or.mp within).imp not_le.mp not_le.mp

theorem Flags.ofWord_inWord (w : Word) : (Flags.ofWord w).inWord w := ⟨rfl, rfl, rfl, rfl, rfl, rfl, rfl, rfl, rfl⟩

theorem State.keeps_interruptReturn (s : State) : s.keeps s.interruptReturn [.sp] [.cs] [] := by
  have popped : s.keeps s.dropTop.dropTop.dropTop [.sp] [.cs] [] :=
    State.keeps_dropTop (State.keeps_dropTop (State.keeps_dropTop (s.keeps_self _ _) (.head _)) (.head _)) (.head _)
  exact State.keeps_jumpFar (State.keeps_setFlags popped _) (.head _) _ _

/-- What IRET does: IP, CS and the flags from the three words on top. -/
theorem exec_iret_spec (s : State) :
    ∃ t, exec .iret s = .next t ∧ t.ip = s.read16 .ss (s.reg .sp) ∧ t.seg .cs = s.read16 .ss (s.reg .sp + 2) ∧
      t.flags = Flags.ofWord (s.read16 .ss (s.reg .sp + 4)) ∧ t.reg .sp = s.reg .sp + 6 ∧ t.queue = [] ∧
      t.bus = s.bus ∧ s.keeps t [.sp] [.cs] [] := by
  have frame := s.keeps_interruptReturn
  rw [s.interruptReturn_eq] at frame
  exact ⟨_, congrArg Host.Outcome.next s.interruptReturn_eq, rfl, rfl, rfl, rfl, rfl, rfl, frame⟩

/-- Settles O37: the flags loaded from a word are its bits. -/
theorem interruptReturn : Obligations.InterruptReturn := by
  unfold Obligations.InterruptReturn
  intro s
  obtain ⟨t, ht, ip, cs, flags, rest⟩ := exec_iret_spec s
  exact ⟨t, ht, ip, cs, flags ▸ Flags.ofWord_inWord _, rest⟩

/-! ### Returning behind a transfer -/

section
variable {s u : State}

/-- Behind a near call the word on top is the return offset. -/
theorem State.callNear_undone {target : Word} (hsp : u.reg .sp = (s.callNear target).reg .sp)
    (hss : u.seg .ss = (s.callNear target).seg .ss) (hmem : u.mem = (s.callNear target).mem) :
    ∃ v, exec .ret u = .next v ∧ v.ip = s.ip ∧ v.reg .sp = s.reg .sp := by
  obtain ⟨-, tsp, top, -, -, -, -, tseg, -⟩ := s.callNear_spec target
  obtain ⟨v, hv, ip, sp, -⟩ := exec_returnNear_spec (exec_ret u)
  refine ⟨v, hv, ?_, ?_⟩
  · rw [ip, State.read16, hmem, hss, hsp, tsp, tseg .ss (by simp), top]
  · rw [sp, hsp, tsp]; bv_omega

/-- Behind a far call the two words on top are the return offset and CS. -/
theorem State.callFar_undone {b o : Word} (hsp : u.reg .sp = (s.callFar b o).reg .sp)
    (hss : u.seg .ss = (s.callFar b o).seg .ss) (hmem : u.mem = (s.callFar b o).mem) :
    ∃ v, exec .retFar u = .next v ∧ v.ip = s.ip ∧ v.seg .cs = s.seg .cs ∧ v.reg .sp = s.reg .sp := by
  obtain ⟨-, -, tsp, second, top, -, -, -, -, tseg, -⟩ := s.callFar_spec b o
  obtain ⟨v, hv, ip, cs, sp, -⟩ := exec_returnFar_spec (exec_retFar u)
  have hsecond : s.reg .sp - 4 + 2 = s.reg .sp - 2 := by bv_omega
  refine ⟨v, hv, ?_, ?_, ?_⟩
  · rw [ip, State.read16, hmem, hss, hsp, tsp, tseg .ss (by simp), top]
  · rw [cs, State.read16, hmem, hss, hsp, tsp, tseg .ss (by simp), hsecond, second]
  · rw [sp, hsp, tsp]; bv_omega

/-- Behind the interrupt sequence the three words on top are the return offset, CS and FLAGS, and FLAGS loads back the flags
it was made from. -/
theorem State.interrupt_undone {n : Byte} {ret : Word} (hsp : u.reg .sp = (s.interrupt n ret).reg .sp)
    (hss : u.seg .ss = (s.interrupt n ret).seg .ss) (hmem : u.mem = (s.interrupt n ret).mem) :
    ∃ v, exec .iret u = .next v ∧ v.ip = ret ∧ v.seg .cs = s.seg .cs ∧ v.flags = s.flags ∧ v.reg .sp = s.reg .sp := by
  obtain ⟨tsp, third, second, top, -, -, -, -, -, -, -, -, tseg, -⟩ := s.interrupt_entered n ret []
  obtain ⟨v, hv, ip, cs, flags, sp, -⟩ := exec_iret_spec u
  have hss : u.seg .ss = s.seg .ss := hss.trans (tseg .ss (by simp))
  have hsp : u.reg .sp = s.reg .sp - 6 := hsp.trans tsp
  have hsecond : s.reg .sp - 6 + 2 = s.reg .sp - 4 := by bv_omega
  have hthird : s.reg .sp - 6 + 4 = s.reg .sp - 2 := by bv_omega
  refine ⟨v, hv, ?_, ?_, ?_, ?_⟩
  · rw [ip, State.read16, hmem, hss, hsp, top]
  · rw [cs, State.read16, hmem, hss, hsp, hsecond, second]
  · rw [flags, State.read16, hmem, hss, hsp, hthird, third, Flags.ofWord_toWord]
  · rw [sp, hsp]; bv_omega

end

/-- Settles O38: each return pops what its transfer has left on the stack. -/
theorem returnsUndoTransfers : Obligations.ReturnsUndoTransfers := by
  unfold Obligations.ReturnsUndoTransfers
  intro disp o b rm m n s
  simp only [List.forall_mem_cons, List.not_mem_nil, false_imp_iff, implies_true, and_true]
  refine ⟨⟨⟨_, rfl, fun _ => State.callNear_undone⟩, _, rfl, fun _ => State.callNear_undone⟩,
    ⟨⟨_, rfl, fun _ => State.callFar_undone⟩, _, rfl, fun _ => State.callFar_undone⟩,
    fun _ => ⟨_, rfl, fun _ => State.interrupt_undone⟩, fun _ => ⟨_, rfl, fun _ => State.interrupt_undone⟩,
    fun overflow => ?_⟩
  have exec_into : exec .into s = .next (s.interrupt 4 s.ip) := congrArg Host.Outcome.next (if_pos (overflow trivial))
  exact ⟨_, exec_into, fun _ => State.interrupt_undone⟩

end Sys2Proof.Machine
end

section
/-! PROOF. The family of 43_flag_processor_control.md: the flag operations; LAHF and SAHF, bit by bit; NOP, the prefixes, ESC,
HLT and WAIT; last, the steps of a machine that is halted or waiting. -/

namespace Sys2Proof.Machine

/-! ### Flag operations -/

/-- Settles O39: on each opcode byte the decoder evaluates, and each meaning sets the flags, STI `sti_shadow` too. -/
theorem flagOperations : Obligations.FlagOperations := by
  unfold Obligations.FlagOperations
  intro s rest
  simp only [List.forall_mem_cons, List.not_mem_nil, false_imp_iff, implies_true, and_true]
  exact ⟨⟨⟨rfl, rfl⟩, ⟨rfl, rfl⟩, ⟨rfl, rfl⟩, ⟨rfl, rfl⟩, ⟨rfl, rfl⟩, rfl, rfl⟩, rfl, rfl⟩

/-! ### LAHF and SAHF -/

theorem getLsbD_flagAt (b : Bool) {n : Nat} (hn : n < 16) (k : Nat) :
    (flagAt b n).getLsbD k = (b && decide (n = k)) := by
  cases b with
  | false => exact BitVec.getLsbD_zero
  | true => simp [flagAt, BitVec.getLsbD_twoPow, hn]

/-- The byte LAHF puts into AH: five flags at their places, bits 5, 3 and 1 from the free word `u` (R257; log 49). -/
def lahfImage (f : Flags) (u : Word) : Byte :=
  (flagAt f.SF 7 ||| flagAt f.ZF 6 ||| flagAt f.AF 4 ||| flagAt f.PF 2 ||| flagAt f.CF 0 ||| (u &&& 0x002A)).lo

/-- At the places of the five flags the mask of the free bits is 0. -/
theorem lahfImage_getLsbD (f : Flags) (u : Word) :
    (lahfImage f u).getLsbD 7 = f.SF ∧ (lahfImage f u).getLsbD 6 = f.ZF ∧ (lahfImage f u).getLsbD 4 = f.AF ∧
      (lahfImage f u).getLsbD 2 = f.PF ∧ (lahfImage f u).getLsbD 0 = f.CF := by
  simp [lahfImage, Word.lo, BitVec.getLsbD_extractLsb', getLsbD_flagAt, -BitVec.getLsbD_eq_getElem]

theorem exec_lahf (s : State) : exec .lahf s = .next ((s.setReg8 .ah (lahfImage s.flags s.free)).drawn 1) := rfl

/-- Settles O40: LAHF writes AH only, and its image has each flag at its place; SAHF writes flags only. -/
theorem flagsThroughAh : Obligations.FlagsThroughAh := by
  unfold Obligations.FlagsThroughAh
  intro s rest
  obtain ⟨⟨ah, halves⟩, frame⟩ := State.agrees_setReg8 s.agrees_refl .ah (lahfImage s.flags s.free)
  obtain ⟨sf, zf, af, pf, cf⟩ := lahfImage_getLsbD s.flags s.free
  rw [← ah] at sf zf af pf cf
  exact ⟨rfl, rfl, ⟨_, exec_lahf s, sf, zf, af, pf, cf, halves .al (by decide), rfl, frame, rfl, rfl, rfl⟩,
    _, rfl, rfl, State.keeps_setFlags (s.keeps_self [] []) _, rfl, rfl, rfl⟩

/-! ### NOP, the prefixes, ESC, HLT and WAIT -/

/-- Settles O41: on each opcode byte the decoder evaluates, and each meaning is the state the statement names. -/
theorem nopAndPrefixes : Obligations.NopAndPrefixes := by
  unfold Obligations.NopAndPrefixes
  intro s rest
  simp only [List.forall_mem_cons, List.not_mem_nil, false_imp_iff, implies_true, and_true]
  exact ⟨rfl, rfl, rfl, rfl, ⟨⟨rfl, rfl⟩, ⟨rfl, rfl⟩, ⟨rfl, rfl⟩, rfl, rfl⟩, ⟨rfl, rfl⟩, rfl, rfl⟩

section
variable {opcode : BitVec 6} {rm : RM16} {s : State}

/-- ESC under `trap7` (60_exceptions.md R349). -/
theorem exec_esc_of_traps (h : Config.escTraps = true) : exec (.esc opcode rm) s = .next (s.interrupt 7 s.thisIp) :=
  congrArg Host.Outcome.next (if_pos h)

/-- ESC under `nop_with_read` (R262). -/
theorem exec_esc_of_not_traps (h : ¬ Config.escTraps = true) :
    exec (.esc opcode rm) s = .next { s with bus := .escape opcode (s.escOperand rm) :: s.bus } :=
  congrArg Host.Outcome.next (if_neg h)

end

/-- Settles O42: ESC in both cases of `ESC_ACTION`; HLT and WAIT are what their meanings say. -/
theorem escapeHaltAndWait : Obligations.EscapeHaltAndWait := by
  unfold Obligations.EscapeHaltAndWait
  intro opcode rm s
  refine ⟨?_, rfl, rfl⟩
  split
  next traps => exact ⟨_, exec_esc_of_traps traps, s.interrupt_entered 7 s.thisIp []⟩
  next goesOn =>
    refine ⟨_, exec_esc_of_not_traps goesOn, ?_, rfl, rfl, s.keeps_self [] []⟩
    cases rm <;> rfl

/-! ### The halt and wait states -/

section
variable {s : State}

/-- A machine that is halted or waiting does not fetch (60_exceptions.md R361, R362). -/
theorem step_of_idle (hr : s.lines.reset = false) (hi : (s.halted || s.waiting) = true) :
    step s = if s.storesIntoText s.idle then .refused .storeIntoProgramText else .next s.idle := by
  simp [step, State.settle, hr, hi]

theorem State.idle_of_nmi (hn : s.lines.nmi = true) :
    s.idle = { s with lines := { s.lines with nmi := false } }.interrupt 2 s.returnIp :=
  if_pos hn

theorem State.idle_of_intr (hn : s.lines.nmi = false) {n : Byte} (hq : s.lines.intr = some n) (hf : s.flags.IF = true) :
    s.idle = { s with lines := { s.lines with intr := none } }.interrupt n s.returnIp := by
  simp [State.idle, State.takeIntr, hn, hq, hf]

/-- Without a request that may be recognised, only the test line matters. -/
theorem State.idle_of_no_request (hn : s.lines.nmi = false) (h : s.lines.intr = none ∨ s.flags.IF = false) :
    s.idle = if s.waiting && s.lines.test then { s with waiting := false } else s := by
  unfold State.idle
  rw [hn, if_neg Bool.false_ne_true]
  cases hq : s.lines.intr with
  | none => rfl
  | some n => rw [h.resolve_left (by simp [hq])]

theorem State.final_iff (s : State) :
    s.final = true ↔ s.halted = true ∧ s.waiting = false ∧ s.lines.reset = false ∧ s.lines.nmi = false ∧
      (s.lines.intr = none ∨ s.flags.IF = false) := by
  cases hq : s.lines.intr <;> simp [State.final, hq, and_assoc]

/-- The final state is final: nothing is left to be recognised, and nothing is waited for. -/
theorem step_of_final (h : s.final = true) : step s = .next s := by
  obtain ⟨halted, waiting, reset, nmi, intr⟩ := s.final_iff.mp h
  have stays : s.idle = s := by rw [State.idle_of_no_request nmi intr, waiting]; rfl
  rw [step_of_idle reset (by rw [halted]; rfl), stays, s.storesIntoText_self]
  rfl

end

/-- Settles O57: `step` is `idle`, whose cases are the statement's; `interrupt_entered` says what a request does. -/
theorem haltAndWaitStates : Obligations.HaltAndWaitStates := by
  unfold Obligations.HaltAndWaitStates
  intro s hr hi
  refine ⟨step_of_final, s.idle, step_of_idle hr hi, ?_⟩
  split
  next nmi =>
    rw [State.idle_of_nmi nmi]
    exact State.interrupt_entered { s with lines := { s.lines with nmi := false } } 2 s.returnIp []
  next nmi =>
    have nmi : s.lines.nmi = false := Bool.eq_false_iff.mpr nmi
    split
    next n intr enabled =>
      rw [State.idle_of_intr nmi intr enabled]
      exact State.interrupt_entered { s with lines := { s.lines with intr := none } } n s.returnIp []
    next noRequest =>
      have none_or_disabled : s.lines.intr = none ∨ s.flags.IF = false := by
        cases intr : s.lines.intr with
        | none => exact .inl rfl
        | some n => exact .inr (Bool.eq_false_iff.mpr (noRequest n intr))
      rw [State.idle_of_no_request nmi none_or_disabled]
      split <;> rfl

end Sys2Proof.Machine
end

section
/-! PROOF. The family of 44_string.md: the step of an index register and its frame; the primitives run once, each as
its element's move or comparison and the steps of its indexes; then what REP and REPNE add to a primitive, and the request
taken in a repetition's place. -/

namespace Sys2Proof.Machine

/-! ### Index registers -/

section
variable {s t : State} {regs : List Reg16} {bytes : List Nat}

/-- The model's step of an index register is the statements' (R280). -/
theorem State.stepIndex_eq (s : State) (w : Width) (r : Reg16) : s.stepIndex w r = s.setReg r (stepped s r w) := by
  unfold State.stepIndex stepped
  cases s.flags.DF <;> cases w <;> rfl

/-- What an index register steps to depends on DF and on that register only. -/
theorem stepped_congr (hdf : t.flags.DF = s.flags.DF) {r : Reg16} (hr : t.reg r = s.reg r) (w : Width) :
    stepped t r w = stepped s r w := by
  unfold stepped
  rw [hdf, hr]

/-- Stepping an index that is still as it was in `s` adds it to the registers that have changed since. -/
theorem State.stepIndex_spec (frame : s.keeps t regs [] bytes) (hdf : t.flags.DF = s.flags.DF) {r : Reg16}
    (hr : r ∉ regs) (w : Width) :
    (t.stepIndex w r).reg r = stepped s r w ∧ s.keeps (t.stepIndex w r) (regs ++ [r]) [] bytes := by
  obtain ⟨hregs, hrest⟩ := frame
  rw [State.stepIndex_eq, stepped_congr hdf (hregs r hr)]
  refine ⟨Regs.get_set_self _ _ _, State.keeps_setReg ⟨fun q hq => hregs q fun h => hq ?_, hrest⟩ ?_ _⟩
  · exact List.mem_append_left _ h
  · exact List.mem_append_right _ (.head _)

/-- Stepping SI and DI after an operation that has changed no register. -/
theorem State.stepBoth_spec (frame : s.keeps t [] [] bytes) (hdf : t.flags.DF = s.flags.DF) (w : Width) :
    let u := (t.stepIndex w .si).stepIndex w .di
    u.reg .si = stepped s .si w ∧ u.reg .di = stepped s .di w ∧ s.keeps u [.si, .di] [] bytes := by
  obtain ⟨si, frameSi⟩ := State.stepIndex_spec frame hdf (r := .si) List.not_mem_nil w
  obtain ⟨di, frameDi⟩ := State.stepIndex_spec (t := t.stepIndex w .si) frameSi hdf (r := .di) (by decide) w
  exact ⟨si, di, frameDi⟩

/-- A byte store adds its byte to those that change and are recorded. -/
theorem State.keeps_write8 {segs : List SegReg} (h : s.keeps t regs segs bytes) (r : SegReg) (o : Word) (v : Byte) :
    s.keeps (t.write8 r o v) regs segs (bytes ++ [phys (t.seg r) o]) := by
  obtain ⟨hregs, hsegs, hmem, hthis, hhalted, hwaiting, hsti, hinhibit, htrap, hpre, hlines, htext, hexecuted, hstored⟩ := h
  refine ⟨hregs, hsegs, fun a ha => ?_, hthis, hhalted, hwaiting, hsti, hinhibit, htrap, hpre, hlines, htext, hexecuted,
    fun a => ?_⟩
  · obtain ⟨old, new⟩ : a ∉ bytes ∧ a ≠ phys (t.seg r) o := by simpa using ha
    exact (Memory.read_write_ne _ _ new).trans (hmem a old)
  · simp only [State.write8_stored, mem_recorded, hstored, State.seg, List.mem_append, List.mem_singleton]
    tauto

end

/-! ### One element -/

/-- A string instruction without REP or REPNE runs its primitive once. -/
theorem exec_of_no_repeat {i : Instr} {s : State} {compares : Bool} {once : State → State}
    (hi : exec i s = .next (repeated compares once s)) (h : s.pre.rep = none) : exec i s = .next (once s) := by
  rw [hi, repeated_of_none compares once h]

/-- The frame of a store to ES:DI. -/
theorem State.keeps_storeDest8 (s : State) (v : Byte) :
    s.keeps (s.storeDest8 v) [] [] [phys (s.seg .es) (s.reg .di)] :=
  State.keeps_write8 (s.keeps_self [] []) .es _ v

theorem State.keeps_storeDest16 (s : State) (v : Word) :
    s.keeps (s.storeDest16 v) [] [] (s.wordBytes .es (s.reg .di)) :=
  State.keeps_write16 (s.keeps_self [] []) .es _ v

/-- Settles O43: each primitive is one store or load and the steps of its indexes. -/
theorem stringMoves : Obligations.StringMoves := by
  unfold Obligations.StringMoves
  intro s h
  dsimp only
  refine ⟨?movsb, ?movsw, ?stosb, ?stosw, ?lodsb, ?lodsw⟩
  case movsb =>
    obtain ⟨si, di, frame⟩ := State.stepBoth_spec (s.keeps_storeDest8 s.source8) rfl .byte
    exact ⟨_, exec_of_no_repeat rfl h, Memory.read_write_same _ _ _, si, di, rfl, ⟨rfl, rfl, rfl⟩, frame⟩
  case movsw =>
    obtain ⟨si, di, frame⟩ := State.stepBoth_spec (s.keeps_storeDest16 s.source16) rfl .word
    exact ⟨_, exec_of_no_repeat rfl h, Memory.read16_write16_same _ _ _ _, si, di, rfl, ⟨rfl, rfl, rfl⟩, frame⟩
  case stosb =>
    obtain ⟨di, frame⟩ := State.stepIndex_spec (s.keeps_storeDest8 (s.reg8 .al)) rfl (r := .di) List.not_mem_nil .byte
    exact ⟨_, exec_of_no_repeat rfl h, Memory.read_write_same _ _ _, di, rfl, ⟨rfl, rfl, rfl⟩, frame⟩
  case stosw =>
    obtain ⟨di, frame⟩ := State.stepIndex_spec (s.keeps_storeDest16 s.regs.ax) rfl (r := .di) List.not_mem_nil .word
    exact ⟨_, exec_of_no_repeat rfl h, Memory.read16_write16_same _ _ _ _, di, rfl, ⟨rfl, rfl, rfl⟩, frame⟩
  case lodsb =>
    obtain ⟨⟨al, others⟩, loaded⟩ := State.agrees_setReg8 s.agrees_refl .al s.source8
    obtain ⟨si, frame⟩ := State.stepIndex_spec loaded rfl (r := .si) (by decide) .byte
    exact ⟨_, exec_of_no_repeat rfl h, al, others .ah (by decide), si, rfl, ⟨rfl, rfl, rfl⟩, frame⟩
  case lodsw =>
    have loaded := State.agrees_setReg_keeps s.agrees_refl .ax s.source16
    obtain ⟨si, frame⟩ := State.stepIndex_spec loaded rfl (r := .si) (by decide) .word
    exact ⟨_, exec_of_no_repeat rfl h, rfl, si, rfl, ⟨rfl, rfl, rfl⟩, frame⟩

/-- The frame of a comparison, before its indexes step. -/
theorem State.keeps_aluSub (s : State) {w : Nat} (a b : BitVec w) : s.keeps (aluSub w a b s).2 [] [] [] :=
  State.keeps_setFlags (s.keeps_self [] []) _

/-- Settles O44: each primitive posts the flags of one subtraction and steps its indexes. -/
theorem stringCompares : Obligations.StringCompares := by
  unfold Obligations.StringCompares
  intro s h
  dsimp only
  refine ⟨?cmpsb, ?cmpsw, ?scasb, ?scasw⟩
  case cmpsb =>
    obtain ⟨si, di, frame⟩ := State.stepBoth_spec (s.keeps_aluSub s.source8 s.dest8) rfl .byte
    exact ⟨_, exec_of_no_repeat rfl h, subFlags_afterSub s.flags (.inl rfl) _ _ _, si, di, ⟨rfl, rfl, rfl⟩, frame⟩
  case cmpsw =>
    obtain ⟨si, di, frame⟩ := State.stepBoth_spec (s.keeps_aluSub s.source16 s.dest16) rfl .word
    exact ⟨_, exec_of_no_repeat rfl h, subFlags_afterSub s.flags (.inr rfl) _ _ _, si, di, ⟨rfl, rfl, rfl⟩, frame⟩
  case scasb =>
    obtain ⟨di, frame⟩ := State.stepIndex_spec (s.keeps_aluSub (s.reg8 .al) s.dest8) rfl (r := .di) List.not_mem_nil .byte
    exact ⟨_, exec_of_no_repeat rfl h, subFlags_afterSub s.flags (.inl rfl) _ _ _, di, ⟨rfl, rfl, rfl⟩, frame⟩
  case scasw =>
    obtain ⟨di, frame⟩ := State.stepIndex_spec (s.keeps_aluSub s.regs.ax s.dest16) rfl (r := .di) List.not_mem_nil .word
    exact ⟨_, exec_of_no_repeat rfl h, subFlags_afterSub s.flags (.inr rfl) _ _ _, di, ⟨rfl, rfl, rfl⟩, frame⟩

/-! ### Repetition -/

/-- `s` as it would be without REP or REPNE. -/
def State.withoutRepeat (s : State) : State := { s with pre := { s.pre with rep := none } }

/-- What the primitives have in common, and what makes a repetition one run of the primitive: it does not look at
`pre.rep`, and leaves CX, IP, `this_ip` and the prefixes alone. -/
structure IsPrimitive (once : State → State) : Prop where
  withoutRepeat (s : State) : once s.withoutRepeat = (once s).withoutRepeat
  cx (s : State) : (once s).reg .cx = s.reg .cx
  ip (s : State) : (once s).ip = s.ip
  thisIp (s : State) : (once s).thisIp = s.thisIp
  pre (s : State) : (once s).pre = s.pre

/-- Each of the seven string instructions is a turn of a primitive, CMPS and SCAS of one that compares. -/
theorem exec_string_eq_repeated (w : Width) :
    ∀ p ∈ [(Instr.cmps w, true), (.ins w, false), (.lods w, false), (.movs w, false), (.outs w, false), (.scas w, true),
        (.stos w, false)],
      ∃ once, IsPrimitive once ∧ ∀ s, exec p.1 s = .next (repeated p.2 once s) := by
  simp only [List.forall_mem_cons, List.not_mem_nil, false_imp_iff, implies_true, and_true]
  refine ⟨⟨cmpsOnce w, ?_, fun _ => rfl⟩, ⟨insOnce w, ?_, fun _ => rfl⟩, ⟨lodsOnce w, ?_, fun _ => rfl⟩,
    ⟨movsOnce w, ?_, fun _ => rfl⟩, ⟨outsOnce w, ?_, fun _ => rfl⟩, ⟨scasOnce w, ?_, fun _ => rfl⟩,
    ⟨stosOnce w, ?_, fun _ => rfl⟩⟩
  all_goals
    constructor
    all_goals intro s; cases w <;> rfl

/-- One element done and counted. -/
def State.counted (s : State) : State := s.setReg .cx (s.reg .cx - 1)

/-- A repetition that is not the last: IP back at the first of its prefixes, the mark set (log 1). -/
def State.goingBack (s : State) : State := { s with ip := s.thisIp, pre := { s.pre with again := true } }

section
variable {compares z : Bool} {once : State → State} {s : State} (hrep : s.pre.rep = some z)
include hrep

/-- With CX = 0 nothing is repeated. -/
theorem repeated_of_cx_zero (hcx : s.reg .cx = 0) : repeated compares once s = s := by
  unfold repeated
  rw [hrep]
  exact if_pos hcx

/-- One repetition of a primitive: the count ends the loop when it has become 0, so when it was 1. -/
theorem repeated_of_cx_ne_zero (prim : IsPrimitive once) (hcx : s.reg .cx ≠ 0) :
    repeated compares once s =
      if s.reg .cx = 1 ∨ (compares = true ∧ (once s).flags.ZF ≠ z) then (once s).counted
      else (once s).counted.goingBack := by
  have ends : (once s).counted.regs.cx = 0 ↔ s.reg .cx = 1 := by
    rw [← prim.cx s]
    exact sub_eq_zero
  unfold repeated
  rw [hrep]
  exact (if_neg hcx).trans (if_congr (or_congr_left ends) rfl rfl)

/-- One step of a repeated instruction: one run of it without REP or REPNE, CX lowered, and IP back if the loop goes on. -/
theorem exec_repeated_spec (prim : IsPrimitive once) {i : Instr}
    (hi : ∀ u, exec i u = .next (repeated compares once u)) :
    if s.reg .cx = 0 then exec i s = .next s
    else
      ∃ u t, exec i s.withoutRepeat = .next u ∧ exec i s = .next t ∧
        t.reg .cx = s.reg .cx - 1 ∧ (∀ r, r ≠ .cx → t.reg r = u.reg r) ∧ t.mem = u.mem ∧ t.flags = u.flags ∧
        t.segs = u.segs ∧ t.bus = u.bus ∧ t.stored = u.stored ∧
        if s.reg .cx = 1 ∨ (compares = true ∧ u.flags.ZF ≠ z) then t.ip = s.ip ∧ t.pre.again = s.pre.again
        else t.ip = s.thisIp ∧ t.pre.again = true := by
  by_cases hcx : s.reg .cx = 0
  · rw [if_pos hcx, hi, repeated_of_cx_zero hrep hcx]
  · rw [if_neg hcx]
    have unrepeated : exec i s.withoutRepeat = .next (once s).withoutRepeat := by
      rw [exec_of_no_repeat (hi _) rfl, prim.withoutRepeat]
    have cx : (once s).counted.reg .cx = s.reg .cx - 1 := congrArg (· - 1) (prim.cx s)
    have others : ∀ r, r ≠ .cx → (once s).counted.reg r = (once s).reg r := fun r hr =>
      (Regs.get_set _ _ _ _).trans (if_neg hr)
    have turn := repeated_of_cx_ne_zero hrep (compares := compares) prim hcx
    by_cases last : s.reg .cx = 1 ∨ (compares = true ∧ (once s).flags.ZF ≠ z)
    · rw [if_pos last] at turn
      refine ⟨_, _, unrepeated, (hi s).trans (congrArg _ turn), cx, others, rfl, rfl, rfl, rfl, rfl, ?_⟩
      exact (if_pos last).mpr ⟨prim.ip s, congrArg Prefixes.again (prim.pre s)⟩
    · rw [if_neg last] at turn
      refine ⟨_, _, unrepeated, (hi s).trans (congrArg _ turn), cx, others, rfl, rfl, rfl, rfl, rfl, ?_⟩
      exact (if_neg last).mpr ⟨prim.thisIp s, rfl⟩

end

/-! ### A request before a repetition -/

/-- A request that may be recognised interrupts before every repetition there is to do. -/
theorem State.repetitionInterrupted_of_request {s : State} {i : Instr} {q : Byte × Lines} (hs : Instr.isString i = true)
    (hrep : s.pre.rep.isSome = true) (hcx : s.reg .cx ≠ 0) (hq : s.request = some q) :
    s.repetitionInterrupted i = true := by
  have due : s.externalDue = true := by rw [← s.request_isSome, hq]; rfl
  have left : (s.regs.cx != 0) = true := bne_iff_ne.mpr hcx
  simp only [State.repetitionInterrupted, hs, hrep, left, due, Bool.and_self]

/-- The request that is due is taken from the state in which IP is back at `this_ip` and no prefixes are in force (R291). -/
theorem State.interruptRepetition_entered {s : State} {n : Byte} {l : Lines} (hw : s.waiting = false)
    (hq : s.request = some (n, l)) :
    { s with lines := l, pre := {} }.entered s.interruptRepetition n s.flags s.startIp [] := by
  have taken := State.takeExternal_cases { s with ip := s.startIp, pre := {} }
  have request : State.request { s with ip := s.startIp, pre := {} } = some (n, l) := hq
  have returnIp : State.returnIp { s with ip := s.startIp, pre := {} } = s.startIp := if_neg (by simp [hw])
  rw [request, returnIp] at taken
  exact taken

/-- A step in which a request takes the place of a repetition. -/
theorem step_of_repetitionInterrupted {s : State} {i : Instr} {rest : Bytes} (run : s.running)
    (hd : decode s.fetchBytes = .ok (i, rest)) (fresh : s.storedFrom s.ip (maxInstrBytes - rest.length) = false)
    (hp : s.prefixRefusal i = none) (hq : s.repetitionInterrupted i = true) :
    step s = s.settle (.next s.interruptRepetition) := by
  obtain ⟨hr, hh, hw⟩ := run
  simp [step, hr, hh, hw, hd, fresh, hp, hq]

/-- Settles O45: the seven instructions are repetitions of a primitive; a request comes first. -/
theorem repeatedStrings : Obligations.RepeatedStrings := by
  unfold Obligations.RepeatedStrings
  refine ⟨fun s w z hrep => ?_, fun s i rest n l hr hh hw hd fresh hp hs hrep hcx hq => ?_⟩
  · intro p hp
    obtain ⟨once, prim, hi⟩ := exec_string_eq_repeated w p hp
    exact exec_repeated_spec hrep prim hi
  · have due := State.repetitionInterrupted_of_request hs hrep hcx hq
    exact ⟨_, State.interruptRepetition_entered hw hq, step_of_repetitionInterrupted ⟨hr, hh, hw⟩ hd fresh hp due⟩

end Sys2Proof.Machine
end

section
/-! PROOF. The family of 45_data_transfer.md: the port instructions; MOV, general and of segment registers; effective
addresses and what is loaded through them; XCHG and XLAT. -/

namespace Sys2Proof.Machine

/-! ### Registers and frames -/

theorem State.reg_setReg (s : State) (r q : Reg16) (v : Word) : (s.setReg r v).reg q = if q = r then v else s.reg q :=
  Regs.get_set s.regs r q v

theorem State.seg_setSeg_self (s : State) (r : SegReg) (v : Word) : (s.setSeg r v).seg r = v :=
  Segs.get_set_self s.segs r v

theorem State.goesOn_refl (s : State) : s.goesOn s := ⟨rfl, rfl, rfl⟩

theorem State.keeps_seg {s t : State} {regs : List Reg16} {segs : List SegReg} {bytes : List Nat}
    (h : s.keeps t regs segs bytes) {r : SegReg} (hr : r ∉ segs) : t.seg r = s.seg r := by
  obtain ⟨-, hsegs, -⟩ := h
  exact hsegs r hr

/-- A frame may name more registers than have changed. -/
theorem State.keeps_of_regs_subset {s t : State} {regs regs' : List Reg16} {segs : List SegReg} {bytes : List Nat}
    (h : s.keeps t regs segs bytes) (sub : regs ⊆ regs') : s.keeps t regs' segs bytes := by
  obtain ⟨hregs, hrest⟩ := h
  exact ⟨fun r hr => hregs r fun hmem => hr (sub hmem), hrest⟩

/-! ### Input and output -/

section
variable {s t : State} {regs : List Reg16} {segs : List SegReg} {bytes : List Nat}

/-- A port access changes the bus record and the draws only. -/
theorem State.keeps_afterPortRead (h : s.keeps t regs segs bytes) (p : Word) (w : Width) (v : Word) :
    s.keeps (t.afterPortRead p w v) regs segs bytes := h

theorem State.keeps_portOut (h : s.keeps t regs segs bytes) (p : Word) (w : Width) (v : Word) :
    s.keeps (t.portOut p w v) regs segs bytes := h

end

/-- Settles O46: the value read is the environment's next answer; each string form is its element's move and a step of
its index. -/
theorem portInstructions : Obligations.PortInstructions := by
  unfold Obligations.PortInstructions
  intro p s n
  have port : n = s.portNumber p := by cases p <;> rfl
  rw [port]
  refine ⟨?inb, ?inw, ?outb, ?outw, fun h => ⟨?insb, ?insw, ?outsb, ?outsw⟩⟩
  case inb =>
    obtain ⟨⟨al, others⟩, frame⟩ := State.agrees_setReg8 s.agrees_refl .al (s.portIn8 (s.portNumber p))
    exact ⟨_, _, rfl, al, others .ah (by decide), rfl, rfl, rfl, State.keeps_afterPortRead frame _ _ _⟩
  case inw =>
    have frame := State.agrees_setReg_keeps s.agrees_refl .ax (s.portIn16 (s.portNumber p))
    exact ⟨_, _, rfl, rfl, rfl, rfl, rfl, State.keeps_afterPortRead frame _ _ _⟩
  case outb => exact ⟨_, rfl, rfl, rfl, rfl, State.keeps_portOut (s.keeps_self [] []) _ _ _⟩
  case outw => exact ⟨_, rfl, rfl, rfl, rfl, State.keeps_portOut (s.keeps_self [] []) _ _ _⟩
  case insb =>
    have read := State.keeps_afterPortRead (s.keeps_storeDest8 (s.portIn8 s.regs.dx)) s.regs.dx .byte
      ((s.portIn8 s.regs.dx).zeroExtend 16)
    obtain ⟨di, frame⟩ := State.stepIndex_spec read rfl (r := .di) List.not_mem_nil .byte
    exact ⟨_, _, exec_of_no_repeat rfl h, Memory.read_write_same _ _ _, rfl, di, rfl, rfl, frame⟩
  case insw =>
    have read := State.keeps_afterPortRead (s.keeps_storeDest16 (s.portIn16 s.regs.dx)) s.regs.dx .word
      (s.portIn16 s.regs.dx)
    obtain ⟨di, frame⟩ := State.stepIndex_spec read rfl (r := .di) List.not_mem_nil .word
    exact ⟨_, _, exec_of_no_repeat rfl h, Memory.read16_write16_same _ _ _ _, rfl, di, rfl, rfl, frame⟩
  case outsb =>
    have written := State.keeps_portOut (s.keeps_self [] []) s.regs.dx .byte (s.source8.zeroExtend 16)
    obtain ⟨si, frame⟩ := State.stepIndex_spec written rfl (r := .si) List.not_mem_nil .byte
    exact ⟨_, exec_of_no_repeat rfl h, rfl, si, rfl, rfl, frame⟩
  case outsw =>
    have written := State.keeps_portOut (s.keeps_self [] []) s.regs.dx .word s.source16
    obtain ⟨si, frame⟩ := State.stepIndex_spec written rfl (r := .si) List.not_mem_nil .word
    exact ⟨_, exec_of_no_repeat rfl h, rfl, si, rfl, rfl, frame⟩

/-! ### MOV -/

/-- The destination of `o` given the value of `o`. -/
def State.writeOperand (s : State) : Operand → State
  | .byte d v => s.writeRM8 d v
  | .word d v => s.writeRM16 d v

/-- Every form of MOV is one write of an operand (R307). -/
theorem exec_mov (f : MovForm) (s : State) : exec (.mov f) s = .next (s.writeOperand (MovForm.moved f s)) := by
  cases f <;> rfl

/-- Settles O47: a write of an operand gives it its value, whether it is a register or in memory. -/
theorem movMovesValue : Obligations.MovMovesValue := by
  unfold Obligations.MovMovesValue
  intro f s
  have written := exec_mov f s
  generalize MovForm.moved f s = o at written ⊢
  cases o with
  | byte d v =>
    exact ⟨_, written, State.writeRM8_puts s.agrees_refl d v, s.writeRM8_flags d v,
      State.writeRM8_goesOn s.goesOn_refl d v⟩
  | word d v =>
    exact ⟨_, written, State.writeRM16_puts s.agrees_refl d v, s.writeRM16_flags d v,
      State.writeRM16_goesOn s.goesOn_refl d v⟩

/-! ### Segment registers -/

section
variable {sr : SegReg} {rm : RM16} {s : State}

theorem exec_movToSeg_of_ne_cs (h : sr ≠ .cs) : exec (.movToSeg sr rm) s = .next (s.loadSeg sr (s.readRM16 rm)) :=
  if_neg h

theorem exec_popSeg_of_ne_cs (h : sr ≠ .cs) : exec (.popSeg sr) s = .next (s.dropTop.loadSeg sr s.top) :=
  if_neg h

end

/-- A segment register loaded: what has changed but `seg_inhibit` (log 28). -/
theorem State.keeps_loadSeg {s t : State} {regs : List Reg16} {sr : SegReg}
    (h : s.keeps { t with segInhibit := true } regs [sr] []) (v : Word) : s.keeps (t.loadSeg sr v) regs [sr] [] :=
  State.keeps_setSeg h (.head _) v

/-- Settles O48: CS is refused; every other segment register is loaded. -/
theorem segmentRegisterMoves : Obligations.SegmentRegisterMoves := by
  unfold Obligations.SegmentRegisterMoves
  intro sr rm s
  refine ⟨⟨_, rfl, State.writeRM16_puts s.agrees_refl rm _, s.writeRM16_flags rm _,
    State.writeRM16_goesOn s.goesOn_refl rm _⟩, ?mov, ?pop⟩
  case mov =>
    split
    next cs => exact if_pos cs
    next h =>
      exact ⟨_, exec_movToSeg_of_ne_cs h, s.seg_setSeg_self sr _, rfl, rfl, s.goesOn_refl,
        State.keeps_loadSeg (State.keeps_self _ [] [sr]) _⟩
  case pop =>
    split
    next cs => exact if_pos cs
    next h =>
      have popped := State.keeps_dropTop (State.keeps_self { s with segInhibit := true } [.sp] [sr]) (.head _)
      exact ⟨_, exec_popSeg_of_ne_cs h, s.dropTop.seg_setSeg_self sr _, rfl, rfl, rfl, s.goesOn_refl,
        State.keeps_loadSeg popped _⟩

/-! ### Effective addresses -/

/-- A byte sign-extended to 16 bits, as a number (R55). -/
theorem toNat_signExtend_byte (b : Byte) :
    (b.signExtend 16).toNat = if b.toNat < 0x80 then b.toNat else 0xFF00 + b.toNat := by
  have low : (b.setWidth 16).toNat = b.toNat := BitVec.toNat_setWidth_of_le (by decide)
  rw [BitVec.toNat_signExtend, low, BitVec.msb_eq_decide]
  by_cases h : b.toNat < 0x80
  · simp [h, Nat.not_le.mpr h]
  · simp [h, Nat.not_lt.mp h, Nat.add_comm]

/-- The effective address of a memory operand as the statements add it up. -/
theorem State.ea_toNat (s : State) (m : MemOp) : (s.ea m).toNat = effectiveAddress s m := by
  cases m with
  | direct o => rfl
  | indexed b d =>
    have disp : (Disp.value d).toNat = match d with
        | .none => 0
        | .d8 b => if b.toNat < 0x80 then b.toNat else 0xFF00 + b.toNat
        | .d16 w => w.toNat := by
      cases d with
      | none => rfl
      | d8 b => exact toNat_signExtend_byte b
      | d16 w => rfl
    simp only [State.ea, effectiveAddress, BitVec.toNat_add, disp]
    cases b with
    | bxSi | bxDi | bpSi | bpDi =>
      simp only [Base.sum, BitVec.toNat_add, Nat.mod_add_mod]
      rfl
    | si | di | bp | bx => rfl

/-- The segment register of a memory operand as the statements choose it. -/
theorem State.segOf_eq (s : State) (m : MemOp) : s.segOf m = operandSegment s m := by
  unfold State.segOf State.segFor operandSegment
  cases s.pre.seg with
  | some r => rfl
  | none =>
    cases m with
    | direct o => rfl
    | indexed b d => cases b <;> rfl

/-- What an instruction does that loads `r` and the segment register `sr` from a doubleword (R304, R306). -/
theorem exec_loadPointer_spec {i : Instr} {s : State} {r : Reg16} {sr : SegReg} {m : MemOp}
    (hi : exec i s = .next ((s.setReg r (s.readMem16 m)).setSeg sr (s.readMem16Next m))) :
    ∃ t, exec i s = .next t ∧ t.reg r = s.read16 (s.segOf m) (s.ea m) ∧
      t.seg sr = s.read16 (s.segOf m) (s.ea m + 2) ∧ t.flags = s.flags ∧ s.goesOn t ∧ s.keeps t [r] [sr] [] :=
  ⟨_, hi, Regs.get_set_self _ _ _, State.seg_setSeg_self _ _ _, rfl, s.goesOn_refl,
    State.keeps_setSeg (State.keeps_setReg (s.keeps_self [r] [sr]) (.head _) _) (.head _) _⟩

/-- Settles O54: the model's address and segment are the statements'; each load writes from one state before it. -/
theorem pointerLoads : Obligations.PointerLoads := by
  unfold Obligations.PointerLoads
  intro r m s
  rw [List.forall_mem_cons, List.forall_mem_singleton]
  exact ⟨s.ea_toNat m, s.segOf_eq m, ⟨exec_loadPointer_spec rfl, exec_loadPointer_spec rfl⟩,
    _, rfl, (congrArg BitVec.toNat (Regs.get_set_self _ _ _)).trans (s.ea_toNat m), rfl, s.goesOn_refl,
    State.keeps_setReg (s.keeps_self [r] []) (.head _) _⟩

/-! ### XCHG and XLAT -/

/-- Settles O55: the second write of an exchange is to a register, and changes nothing of the first but where both operands
are that register. -/
theorem exchangeAndTranslate : Obligations.ExchangeAndTranslate := by
  unfold Obligations.ExchangeAndTranslate
  intro rm8 r8 rm16 r s
  refine ⟨?xchg8, ?xchg16, ?xchgAx, ?xlat⟩
  case xchg8 =>
    obtain ⟨value, first⟩ := State.writeRM8_puts s.agrees_refl rm8 (s.reg8 r8)
    have frame := State.keeps_of_regs_subset first (List.subset_cons_self (Reg8.parent r8) _)
    refine ⟨_, rfl, State.reg8_setReg8_self _ _ _, ?_, s.writeRM8_flags rm8 _,
      State.setReg8_goesOn (State.writeRM8_goesOn s.goesOn_refl rm8 _) r8 _, State.keeps_setReg frame (.head _) _⟩
    cases rm8 with
    | reg q =>
      obtain ⟨self, others⟩ := value
      refine ⟨?_, fun x hq hr => ?_⟩
      · rw [State.reg8_setReg8]
        split
        next h => exact congrArg s.reg8 h
        next => exact self
      · rw [State.reg8_setReg8, if_neg hr]
        exact others x hq
    | mem m =>
      refine ⟨value, fun x hr => ?_⟩
      rw [State.reg8_setReg8, if_neg hr]
      rfl
  case xchg16 =>
    obtain ⟨value, first⟩ := State.writeRM16_puts s.agrees_refl rm16 (s.reg r)
    have frame := State.keeps_of_regs_subset first (List.subset_cons_self r _)
    refine ⟨_, rfl, Regs.get_set_self _ _ _, ?_, s.writeRM16_flags rm16 _,
      State.setReg_goesOn (State.writeRM16_goesOn s.goesOn_refl rm16 _) r _, State.keeps_setReg frame (.head _) _⟩
    cases rm16 with
    | reg q =>
      refine (State.reg_setReg _ _ _ _).trans ?_
      split
      next h => exact congrArg s.reg h
      next => exact value
    | mem m => exact value
  case xchgAx =>
    refine ⟨_, rfl, ?_, Regs.get_set_self _ _ _, rfl, s.goesOn_refl,
      State.keeps_setReg (State.keeps_setReg (s.keeps_self [.ax, r] []) (.head _) _) (.tail _ (.head _)) _⟩
    rw [State.reg_setReg]
    split
    next h => exact congrArg s.reg h
    next => rfl
  case xlat =>
    obtain ⟨⟨al, others⟩, frame⟩ := State.agrees_setReg8 s.agrees_refl .al
      (s.read8 (s.segFor .ds) (s.regs.bx + (s.reg8 .al).zeroExtend 16))
    exact ⟨_, rfl, al, others .ah (by decide), rfl, s.goesOn_refl, frame⟩

end Sys2Proof.Machine
end

section
/-! PROOF. The family of 45_data_transfer.md, continued: POP and POPF; one push; several pushes one after another, as PUSHA
and ENTER make them; POPA and LEAVE. -/

namespace Sys2Proof.Machine

/-! ### POP -/

/-- POP to a register other than SP (R309). -/
theorem State.popTo_reg_of_ne_sp (s : State) {r : Reg16} (h : r ≠ .sp) :
    s.popTo (.reg r) = s.dropTop.setReg r s.top := by
  cases r with
  | sp => exact absurd rfl h
  | ax | cx | dx | bx | bp | si | di => rfl

/-- What POP to a register does; for SP in both cases of `POP_SP_RESULT` (log 17). -/
theorem State.popTo_reg_spec (s : State) (r : Reg16) :
    let t := s.popTo (.reg r)
    (if r = .sp then t.reg r = s.top ∨ t.reg r = s.top + 2 else t.reg r = s.top ∧ t.reg .sp = s.reg .sp + 2) ∧
      t.flags = s.flags ∧ s.goesOn t ∧ s.keeps t [r, .sp] [] [] := by
  by_cases h : r = .sp
  · subst h
    have outcome : (s.popTo (.reg .sp)).reg .sp = if Config.popSpAddsTwo then s.top + 2 else s.top := rfl
    refine ⟨?_, rfl, s.goesOn_refl, State.keeps_setReg (s.keeps_self _ []) (.head _) _⟩
    rw [if_pos rfl, outcome]
    split
    · exact .inr rfl
    · exact .inl rfl
  · dsimp only
    rw [s.popTo_reg_of_ne_sp h, if_neg h, State.reg_setReg, State.reg_setReg, if_pos rfl, if_neg (Ne.symm h)]
    have popped : s.keeps s.dropTop [r, .sp] [] [] := State.keeps_dropTop (s.keeps_self _ []) (.tail _ (.head _))
    exact ⟨⟨rfl, rfl⟩, rfl, s.goesOn_refl, State.keeps_setReg popped (.head _) _⟩

/-- Settles O49: a memory destination is written before SP is raised, which its address does not involve. -/
theorem popsTransferTop : Obligations.PopsTransferTop := by
  unfold Obligations.PopsTransferTop
  intro r m s top
  rw [List.forall_mem_cons, List.forall_mem_singleton]
  refine ⟨⟨⟨_, rfl, s.popTo_reg_spec r⟩, _, rfl, s.popTo_reg_spec r⟩, ?mem, ?popf⟩
  case mem =>
    exact ⟨_, rfl, Memory.read16_write16_same _ _ _ _, rfl, rfl, s.goesOn_refl,
      State.keeps_dropTop (State.keeps_write16 (s.keeps_self [.sp] []) _ _ _) (.head _)⟩
  case popf =>
    exact ⟨_, rfl, Flags.ofWord_inWord _, rfl, s.goesOn_refl,
      State.keeps_setFlags (State.keeps_dropTop (s.keeps_self [.sp] []) (.head _)) _⟩

/-! ### One push -/

/-- An instruction that pushes the word `v`. -/
theorem exec_push_spec {i : Instr} {s : State} {v : Word} (hi : exec i s = .next (s.push16 v)) :
    ∃ t, exec i s = .next t ∧ t.reg .sp = s.reg .sp - 2 ∧ t.mem.read16 (s.seg .ss) (s.reg .sp - 2) = v ∧
      t.flags = s.flags ∧ s.goesOn t ∧ s.keeps t [.sp] [] (s.wordBytes .ss (s.reg .sp - 2)) :=
  ⟨_, hi, rfl, s.push16_top v, rfl, s.goesOn_refl, State.keeps_push16 (s.keeps_self [.sp] []) (.head _) v⟩

/-- A register pushed, SP as it is after the lowering (R313). -/
theorem exec_pushReg (r : Reg16) (s : State) :
    exec (.pushReg r) s = .next (s.push16 (if r = .sp then s.reg .sp - 2 else s.reg r)) :=
  congrArg (fun v => Host.Outcome.next (s.push16 v)) (s.reg_setReg .sp r _)

/-- No effective address involves SP. -/
theorem State.ea_setReg_sp (s : State) (v : Word) (m : MemOp) : (s.setReg .sp v).ea m = s.ea m := by
  cases m with
  | direct o => rfl
  | indexed b d => cases b <;> rfl

/-- A memory word pushed is the word before the lowering. -/
theorem exec_pushRm_mem (m : MemOp) (s : State) : exec (.pushRm (.mem m)) s = .next (s.push16 (s.readMem16 m)) :=
  congrArg (fun o => Host.Outcome.next (s.push16 (s.read16 (s.segOf m) o))) (s.ea_setReg_sp _ m)

theorem Flags.toWord_inWord (f : Flags) : f.inWord f.toWord := by
  have loaded := Flags.ofWord_inWord f.toWord
  rwa [Flags.ofWord_toWord] at loaded

/-- Settles O50: every push is `push16` of the word the statement names. -/
theorem pushesStoreWord : Obligations.PushesStoreWord := by
  unfold Obligations.PushesStoreWord
  intro r m sr iw ib s
  simp only [List.forall_mem_cons, List.not_mem_nil, false_imp_iff, implies_true, and_true]
  exact ⟨s.flags.toWord_inWord, exec_push_spec (exec_pushReg r s), exec_push_spec (exec_pushReg r s),
    exec_push_spec (exec_pushRm_mem m s), exec_push_spec rfl, exec_push_spec rfl, exec_push_spec rfl, exec_push_spec rfl⟩

/-! ### Several pushes -/

/-- SP after `n` pushes. -/
def State.spAfter (s : State) (n : Nat) : Word := s.reg .sp - BitVec.ofNat 16 (2 * n)

/-- The addresses of the bytes `n` pushes store. -/
def State.pushedBytes (s : State) (n : Nat) : List Nat :=
  (List.range n).flatMap fun k => s.wordBytes .ss (s.spAfter (k + 1))

/-- From `s` to `t` the words `ws` have been pushed, the first of them deepest, and no registers but SP and `opened` have
changed. -/
structure State.Pushed (s t : State) (opened : List Reg16) (ws : List Word) : Prop where
  sp : t.reg .sp = s.spAfter ws.length
  words : ∀ k w, ws[k]? = some w → t.mem.read16 (s.seg .ss) (s.spAfter (k + 1)) = w
  flags : t.flags = s.flags
  goesOn : s.goesOn t
  frame : s.keeps t (.sp :: opened) [] (s.pushedBytes ws.length)

theorem State.spAfter_succ (s : State) (n : Nat) : s.spAfter (n + 1) = s.spAfter n - 2 := by
  unfold State.spAfter
  bv_omega

theorem State.spAfter_succ_eq (s : State) (n : Nat) :
    s.spAfter (n + 1) = s.reg .sp - 2 - BitVec.ofNat 16 (2 * n) := by
  unfold State.spAfter
  bv_omega

theorem State.pushedBytes_succ (s : State) (n : Nat) :
    s.pushedBytes (n + 1) = s.pushedBytes n ++ s.wordBytes .ss (s.spAfter (n + 1)) := by
  simp [State.pushedBytes, List.range_succ]

/-- A push leaves the words pushed before it where they are, as long as the stack has not gone round its segment. -/
theorem State.read16_spAfter_write16 (s : State) (m : Memory) (b v : Word) {k n : Nat} (hk : k < n) (hn : 2 * n < 2 ^ 16) :
    (m.write16 b (s.spAfter n) v).read16 b (s.spAfter k) = m.read16 b (s.spAfter k) := by
  unfold State.spAfter
  exact Memory.read16_write16_ne _ _ _ _ _ (by bv_omega) (by bv_omega) (by bv_omega)

section
variable {s t : State} {opened : List Reg16} {ws : List Word}

theorem State.Pushed.none (s : State) (opened : List Reg16) : s.Pushed s opened [] where
  sp := (BitVec.sub_zero _).symm
  words _ _ h := nomatch h
  flags := rfl
  goesOn := s.goesOn_refl
  frame := s.keeps_self _ _

/-- One push more. -/
theorem State.Pushed.push (h : s.Pushed t opened ws) (v : Word) (room : 2 * (ws.length + 1) < 2 ^ 16) :
    s.Pushed (t.push16 v) opened (ws ++ [v]) := by
  obtain ⟨sp, words, flags, goesOn, frame⟩ := h
  have ss : t.seg .ss = s.seg .ss := State.keeps_seg frame List.not_mem_nil
  have below : t.reg .sp - 2 = s.spAfter (ws.length + 1) := by rw [sp, s.spAfter_succ]
  have length : (ws ++ [v]).length = ws.length + 1 := List.length_append
  have stored : (t.push16 v).mem = t.mem.write16 (s.seg .ss) (s.spAfter (ws.length + 1)) v := by
    rw [← ss, ← below]; rfl
  refine ⟨?_, fun k w hw => ?_, flags, goesOn, ?_⟩
  · rw [length, ← below]; rfl
  · rw [stored]
    by_cases hk : k < ws.length
    · rw [List.getElem?_append_left hk] at hw
      rw [s.read16_spAfter_write16 _ _ _ (Nat.succ_lt_succ hk) room]
      exact words k w hw
    · obtain ⟨hlt, -⟩ := List.getElem?_eq_some_iff.mp hw
      obtain rfl : k = ws.length := by omega
      rw [List.getElem?_concat_length] at hw
      rw [Memory.read16_write16_same]
      exact Option.some.inj hw
  · have pushed := State.keeps_push16 frame (.head _) v
    rwa [State.wordBytes, ss, below, ← State.wordBytes, ← s.pushedBytes_succ, ← length] at pushed

/-- What has been pushed stays so when a register that may change is set, unless it is SP. -/
theorem State.Pushed.setReg (h : s.Pushed t opened ws) {r : Reg16} (hr : r ∈ opened) (hsp : r ≠ .sp) (v : Word) :
    s.Pushed (t.setReg r v) opened ws := by
  obtain ⟨sp, words, flags, goesOn, frame⟩ := h
  refine ⟨?_, words, flags, goesOn, State.keeps_setReg frame (.tail _ hr) v⟩
  rw [State.reg_setReg, if_neg hsp.symm, sp]

end

/-- Words pushed one after another. -/
theorem State.pushed_foldl (s : State) (ws : List Word) (room : 2 * ws.length < 2 ^ 16) :
    s.Pushed (ws.foldl State.push16 s) [] ws := by
  induction ws using List.reverseRecOn with
  | nil => exact State.Pushed.none s []
  | append_singleton ws v ih =>
    rw [List.length_append, List.length_singleton] at room
    rw [List.foldl_append]
    exact (ih (by omega)).push v room

/-! ### PUSHA and POPA -/

/-- The words PUSHA pushes, in their order (R316). -/
def State.pushaWords (s : State) : List Word :=
  [s.reg .ax, s.reg .cx, s.reg .dx, s.reg .bx, s.reg .sp, s.reg .bp, s.reg .si, s.reg .di]

/-- PUSHA is eight pushes. -/
theorem exec_pusha_spec (s : State) : ∃ t, exec .pusha s = .next t ∧ s.Pushed t [] s.pushaWords :=
  ⟨_, rfl, s.pushed_foldl s.pushaWords (by decide : 2 * 8 < 2 ^ 16)⟩

/-- POPA in one update: each register from its word (R311, 90_conflicts.md C15). -/
theorem exec_popa (s : State) :
    exec .popa s =
      .next { s with
        regs :=
          { di := s.read16 .ss (s.reg .sp), si := s.read16 .ss (s.reg .sp + 2), bp := s.read16 .ss (s.reg .sp + 4),
            bx := s.read16 .ss (s.reg .sp + 8), dx := s.read16 .ss (s.reg .sp + 10),
            cx := s.read16 .ss (s.reg .sp + 12), ax := s.read16 .ss (s.reg .sp + 14), sp := s.reg .sp + 16 } } := by
  show execPopa s = _
  simp only [execPopa, State.dropTop, State.setReg, Regs.set, State.top, State.read16, State.seg, State.reg, Regs.get,
    BitVec.add_assoc, BitVec.ofNat_eq_ofNat, BitVec.reduceAdd]

/-- Any change of the general registers is within the frame that names them all. -/
theorem State.keeps_regs (s : State) (g : Regs) :
    s.keeps { s with regs := g } [.ax, .cx, .dx, .bx, .sp, .bp, .si, .di] [] [] := by
  obtain ⟨-, hrest⟩ := s.keeps_self [] []
  exact ⟨fun r hr => absurd (by cases r <;> decide) hr, hrest⟩

/-- Settles O51: PUSHA is eight pushes; POPA loads each register from its place above SP. -/
theorem pushAllPopAll : Obligations.PushAllPopAll := by
  unfold Obligations.PushAllPopAll
  intro s
  obtain ⟨t, exec_pusha, sp, words, flags, goesOn, frame⟩ := exec_pusha_spec s
  refine ⟨⟨t, exec_pusha, sp, ?_, flags, goesOn, frame⟩, _, exec_popa s, rfl, ?_, rfl, s.goesOn_refl,
    s.keeps_regs _⟩
  · simp only [List.forall_mem_cons, List.not_mem_nil, false_imp_iff, implies_true, and_true]
    exact ⟨words 0 _ rfl, words 1 _ rfl, words 2 _ rfl, words 3 _ rfl, words 4 _ rfl, words 5 _ rfl, words 6 _ rfl,
      words 7 _ rfl⟩
  · simp only [List.forall_mem_cons, List.not_mem_nil, false_imp_iff, implies_true, and_true]
    exact ⟨congrArg (s.read16 .ss) (BitVec.add_zero _).symm, rfl, rfl, rfl, rfl, rfl, rfl⟩

/-! ### ENTER -/

/-- The word ENTER copies in its turn `k + 1` (R300). -/
def State.frameWord (s : State) (k : Nat) : Word :=
  (memFramesCopied s.mem (s.seg .ss) (s.reg .sp) (s.reg .bp) k).read16 (s.seg .ss)
    (s.reg .bp - BitVec.ofNat 16 (2 * (k + 1)))

/-- What ENTER has pushed when it has copied `k` frame pointers. -/
def State.framesCopied (s : State) (k : Nat) : List Word := s.reg .bp :: (List.range k).map s.frameWord

/-- All ENTER pushes at the nesting level `n`. -/
def State.enterWords (s : State) : Nat → List Word
  | 0 => s.framesCopied 0
  | k + 1 => s.framesCopied k ++ [s.reg .sp - 2]

theorem State.framesCopied_length (s : State) (k : Nat) : (s.framesCopied k).length = k + 1 := by
  simp [State.framesCopied]

theorem State.framesCopied_succ (s : State) (k : Nat) : s.framesCopied (k + 1) = s.framesCopied k ++ [s.frameWord k] := by
  simp [State.framesCopied, List.range_succ]

theorem State.enterWords_length (s : State) (n : Nat) : (s.enterWords n).length = n + 1 := by
  cases n with
  | zero => rfl
  | succ k => simp [State.enterWords, State.framesCopied_length]

/-- The words ENTER pushes, by their places: the old BP, the copied frame pointers, the new one. -/
theorem State.enterWords_zero (s : State) (n : Nat) : (s.enterWords n)[0]? = some (s.reg .bp) := by
  cases n <;> rfl

theorem State.enterWords_copied (s : State) {k n : Nat} (h1 : 1 ≤ k) (hk : k < n) :
    (s.enterWords n)[k]? = some (s.frameWord (k - 1)) := by
  obtain ⟨j, rfl⟩ := Nat.exists_eq_add_of_le' h1
  obtain ⟨n, rfl⟩ := Nat.exists_eq_add_of_le' (Nat.one_le_of_lt hk)
  have hj : j < n := by omega
  have inside : j + 1 < (s.framesCopied n).length := by rw [State.framesCopied_length]; omega
  rw [State.enterWords, List.getElem?_append_left inside]
  simp [State.framesCopied, hj]

theorem State.enterWords_last (s : State) {n : Nat} (h : 1 ≤ n) : (s.enterWords n)[n]? = some (s.reg .sp - 2) := by
  obtain ⟨k, rfl⟩ := Nat.exists_eq_add_of_le' h
  rw [State.enterWords, ← s.framesCopied_length k, List.getElem?_concat_length]

/-- What holds when ENTER has pushed BP and copied `k` frame pointers: what lies on the stack, where BP is, and all of
memory, which the next word is read from. -/
structure State.FramesCopied (s t : State) (k : Nat) : Prop where
  pushed : s.Pushed t [.bp] (s.framesCopied k)
  bp : t.reg .bp = s.reg .bp - BitVec.ofNat 16 (2 * k)
  mem : t.mem = memFramesCopied s.mem (s.seg .ss) (s.reg .sp) (s.reg .bp) k

theorem State.FramesCopied.zero (s : State) : s.FramesCopied (s.push16 (s.reg .bp)) 0 where
  pushed := (State.Pushed.none s [.bp]).push (s.reg .bp) (by decide)
  bp := (BitVec.sub_zero _).symm
  mem := rfl

/-- One turn of ENTER's loop. -/
theorem State.FramesCopied.succ {s t : State} {k : Nat} (h : s.FramesCopied t k) (room : 2 * (k + 2) < 2 ^ 16) :
    s.FramesCopied t.copyFramePointer (k + 1) := by
  obtain ⟨pushed, bp, mem⟩ := h
  have ss : t.seg .ss = s.seg .ss := State.keeps_seg pushed.frame List.not_mem_nil
  have bp' : t.reg .bp - 2 = s.reg .bp - BitVec.ofNat 16 (2 * (k + 1)) := by rw [bp]; bv_omega
  have sp' : t.reg .sp - 2 = s.reg .sp - 2 - BitVec.ofNat 16 (2 * (k + 1)) := by
    rw [pushed.sp, State.framesCopied_length, ← s.spAfter_succ, s.spAfter_succ_eq]
  have copied : (t.setReg .bp (t.reg .bp - 2)).read16 .ss (t.reg .bp - 2) = s.frameWord k := by
    rw [State.frameWord, ← mem, ← bp', ← ss]; rfl
  have turn : t.copyFramePointer = (t.setReg .bp (t.reg .bp - 2)).push16 (s.frameWord k) := by rw [← copied]; rfl
  have again := (pushed.setReg (.head _) (by decide) (t.reg .bp - 2)).push (s.frameWord k)
    (by rwa [State.framesCopied_length])
  rw [turn]
  refine ⟨s.framesCopied_succ k ▸ again, bp', ?_⟩
  show t.mem.write16 (t.seg .ss) (t.reg .sp - 2) (s.frameWord k) = _
  rw [ss, sp', mem]
  rfl

/-- ENTER's loop. -/
theorem State.framesCopied_repeatTimes (s : State) (k : Nat) (room : 2 * (k + 1) < 2 ^ 16) :
    s.FramesCopied (repeatTimes k State.copyFramePointer (s.push16 (s.reg .bp))) k := by
  induction k with
  | zero => exact State.FramesCopied.zero s
  | succ k ih =>
    rw [repeatTimes_succ]
    exact (ih (by omega)).succ room

/-- ENTER at the nesting level `n`: its pushes, then BP and SP. -/
theorem State.enterFrame_spec (s : State) (locals : Word) (n : Nat) (room : 2 * (n + 1) < 2 ^ 16) :
    ∃ u, s.Pushed u [.bp] (s.enterWords n) ∧
      s.enterFrame locals n = (u.setReg .bp (s.reg .sp - 2)).setReg .sp (u.reg .sp - locals) := by
  cases n with
  | zero => exact ⟨_, (State.FramesCopied.zero s).pushed, rfl⟩
  | succ k =>
    have copied := s.framesCopied_repeatTimes k (by omega)
    exact ⟨_, copied.pushed.push (s.reg .sp - 2) (by rwa [State.framesCopied_length]), rfl⟩

/-- The nesting level in use is a byte's, so the pushes do not go round the stack segment. -/
theorem effectiveCount_room (masked : Bool) (n : Byte) : 2 * (effectiveCount masked n + 1) < 2 ^ 16 := by
  have := n.isLt
  have := effectiveCount_cases masked n
  omega

/-- Settles O52: the words pushed are read off by their places in `enterWords`. -/
theorem enterBuildsFrame : Obligations.EnterBuildsFrame := by
  unfold Obligations.EnterBuildsFrame
  intro locals level s bp sp ss
  have levels := effectiveCount_cases Config.enterLevelMaskedTo5 level
  have room := effectiveCount_room Config.enterLevelMaskedTo5 level
  have exec_enter : exec (.enter locals level) s =
      .next (s.enterFrame locals (effectiveCount Config.enterLevelMaskedTo5 level)) := rfl
  generalize effectiveCount Config.enterLevelMaskedTo5 level = n at levels room exec_enter
  obtain ⟨u, ⟨usp, words, flags, goesOn, frame⟩, framed⟩ := s.enterFrame_spec locals n room
  rw [s.enterWords_length] at usp frame
  rw [framed] at exec_enter
  refine ⟨_, exec_enter, rfl, flags, goesOn, n, by omega, by omega, ?_, ?_, fun k h1 hk => ?_, fun h => ?_, ?_⟩
  · show u.reg .sp - locals = _
    rw [usp, s.spAfter_succ_eq]
  · exact words 0 _ (s.enterWords_zero n)
  · rw [← s.spAfter_succ_eq]
    have := words k _ (s.enterWords_copied h1 hk)
    rwa [State.frameWord, Nat.sub_add_cancel h1] at this
  · rw [← s.spAfter_succ_eq]
    exact words n _ (s.enterWords_last h)
  · have frame := State.keeps_of_regs_subset frame (List.Perm.swap Reg16.bp .sp []).subset
    exact State.keeps_setReg (State.keeps_setReg frame (.head _) _) (.tail _ (.head _)) _

/-! ### LEAVE -/

/-- What LEAVE does. -/
theorem exec_leave_spec (s : State) :
    ∃ t, exec .leave s = .next t ∧ t.reg .sp = s.reg .bp + 2 ∧ t.reg .bp = s.read16 .ss (s.reg .bp) ∧
      t.flags = s.flags ∧ s.goesOn t ∧ s.keeps t [.sp, .bp] [] [] := by
  have released : s.keeps (s.setReg .sp s.regs.bp).dropTop [.sp, .bp] [] [] :=
    State.keeps_dropTop (State.keeps_setReg (s.keeps_self _ []) (.head _) _) (.head _)
  exact ⟨_, rfl, rfl, rfl, rfl, s.goesOn_refl, State.keeps_setReg released (.tail _ (.head _)) _⟩

/-- Settles O53: ENTER leaves BP at the word it pushed first, the old BP, whatever the level. -/
theorem leaveUndoesEnter : Obligations.LeaveUndoesEnter := by
  unfold Obligations.LeaveUndoesEnter
  intro locals level s
  obtain ⟨t, exec_enter, bp, -, -, n, -, -, -, saved, -, -, frame⟩ := enterBuildsFrame locals level s
  refine ⟨exec_leave_spec s, t, exec_enter, fun u ubp uss umem => ?_⟩
  obtain ⟨v, exec_leave, vsp, vbp, -⟩ := exec_leave_spec u
  refine ⟨v, exec_leave, ?_, ?_⟩
  · rw [vbp, State.read16, umem, uss, ubp, bp, State.keeps_seg frame List.not_mem_nil, saved]
  · rw [vsp, ubp, bp, BitVec.sub_add_cancel]

end Sys2Proof.Machine
end

section
/-! PROOF. The family of 60_exceptions.md: the boundary after an instruction, whose two steps the laws of `takeExternal` and
`takeTrap` describe; then the state a decoded instruction runs on, and the step that runs it. -/

namespace Sys2Proof.Machine

/-! ### The boundary -/

/-- The end of an instruction, as the boundary at the state in which its prefixes have ended. -/
theorem State.endInstr_eq (s t : State) :
    s.endInstr t =
      (if t.pre.again then { t with pre := {}, stiShadow := s.stiShadow, segInhibit := s.segInhibit }
        else { t with pre := {} } : State).boundary :=
  (apply_ite State.boundary _ _ _).symm

/-- Settles O56: the state after the external request, if one is taken, lies between the boundary's two steps. -/
theorem boundaryTakesInterrupts : Obligations.BoundaryTakesInterrupts := by
  unfold Obligations.BoundaryTakesInterrupts
  intro s t e
  have boundary : s.endInstr t = e.takeExternal.takeTrap := s.endInstr_eq t
  refine ⟨e.takeExternal, e.takeExternal_cases, ?_⟩
  rw [boundary]
  exact e.takeExternal.takeTrap_cases

/-! ### Running the decoded instruction -/

/-- `beginInstr` is `begin`, but that the inhibitions are over for an instruction that is no prefix. -/
theorem State.beginInstr_eq (s : State) (i : Instr) (n : Nat) :
    ∃ sti seg, s.beginInstr i n = { s.begin n with stiShadow := sti, segInhibit := seg } ∧
      (Instr.isPrefix i = false → sti = false ∧ seg = false) := by
  unfold State.beginInstr
  split
  next isPrefix => exact ⟨s.stiShadow, s.segInhibit, rfl, fun notPrefix => by simp [isPrefix] at notPrefix⟩
  next => exact ⟨false, false, rfl, fun _ => ⟨rfl, rfl⟩⟩

/-- A step that is neither refused nor given to a request runs the instruction. -/
theorem step_of_decoded {s : State} {i : Instr} {rest : Bytes} (run : s.running)
    (hd : decode s.fetchBytes = .ok (i, rest)) (fresh : s.storedFrom s.ip (maxInstrBytes - rest.length) = false)
    (hp : s.prefixRefusal i = none) (hq : s.repetitionInterrupted i = false) :
    step s = s.settle (s.finish i (exec i (s.beginInstr i (maxInstrBytes - rest.length)))) := by
  obtain ⟨hr, hh, hw⟩ := run
  simp [step, hr, hh, hw, hd, fresh, hp, hq]

/-- Settles O5: the instruction runs on `beginInstr`; its answer goes through `finish` and `settle`. -/
theorem stepRunsDecodedInstruction : Obligations.StepRunsDecodedInstruction := by
  unfold Obligations.StepRunsDecodedInstruction
  intro s i rest n hr hh hw hd fresh hp hq
  have runs : step s = s.settle (s.finish i (exec i (s.beginInstr i n))) :=
    step_of_decoded ⟨hr, hh, hw⟩ hd fresh hp hq
  obtain ⟨sti, seg, begins, cleared⟩ := s.beginInstr_eq i n
  rw [begins] at runs
  refine ⟨{ s.begin n with stiShadow := sti, segInhibit := seg }, rfl, rfl, rfl, cleared, rfl, rfl, rfl, rfl, rfl, rfl,
    rfl, hh, hw, rfl, rfl, mem_foldl_recorded _ _, ?_⟩
  rw [runs]
  cases exec i { s.begin n with stiShadow := sti, segInhibit := seg } with
  | next | fault | refused => rfl

end Sys2Proof.Machine
end

section
/-! PROOF. The family of 70_reset_and_hazards.md: the step that answers an active RESET line. -/

namespace Sys2Proof.Machine

/-- A new run, in which nothing is stored yet, has stored nothing into program text (20_memory.md R72). -/
theorem State.storesIntoText_of_stored_nil (s : State) {t : State} (h : t.stored = []) : s.storesIntoText t = false := by
  simp [State.storesIntoText, h]

/-- RESET comes before everything else in a step, and `settle` never refuses it: the new run has no stores. -/
theorem step_of_reset {s : State} (hr : s.lines.reset = true) : step s = .next s.onReset := by
  have noStore : s.storesIntoText s.onReset = false := s.storesIntoText_of_stored_nil rfl
  simp [step, State.settle, hr, noStore]

/-- Settles O58: the step is `onReset`, whose fields are `State.reset`'s but for those it takes from `s`. -/
theorem resetLine : Obligations.ResetLine := by
  unfold Obligations.ResetLine
  intro s hr
  exact ⟨s.onReset, step_of_reset hr, rfl, rfl, rfl, rfl, rfl, rfl, rfl, rfl, rfl, rfl, rfl, rfl, rfl, rfl, rfl, rfl⟩

end Sys2Proof.Machine
end
